-- ==== Sys2Proof/Word.lean ====
section
/-! DEFINITION. The widths of the spec (spec/00_scope.md R15): `u8`, `u15`, `u16`, `u32`. -/

namespace Sys2Proof

/-- `u8`: a register, a memory byte, the data of a bus transaction (R11, R87). -/
abbrev Byte := BitVec 8

/-- `u16`: a bus address (R110). -/
abbrev Addr := BitVec 16

/-- `u15`: one entry of the colour-mode palette RAM (R40). -/
abbrev Rgb15 := BitVec 15

/-- `u32`: one value of the Frame Store (R50). -/
abbrev Argb := BitVec 32

/-- Width of a line in columns (R9). -/
abbrev columns : Nat := 160

/-- Visible lines of a frame (R9). -/
abbrev rows : Nat := 144

end Sys2Proof
end

