-- ==== Sys2Proof/Config.lean ====
section
/-! DEFINITION. The named parameters of spec/00_scope.md R12. They are fixed for a session (R56) and stand in
the state as `State.cfg`, so that a statement about every state is a statement about every value of them
(log entry 1). -/

namespace Sys2Proof

/-- The parameters of R12, one field each. -/
structure Config where
  /-- `COLOR_MODE`: colour (CGB) mode active for the whole session (R56). -/
  colorMode : Bool
  /-- `REG_BASE`: address of `base+0`. -/
  regBase : Addr
  /-- `VBK_ADDR`. -/
  vbkAddr : Addr
  /-- `BCPS_ADDR`. -/
  bcpsAddr : Addr
  /-- `BCPD_ADDR`. -/
  bcpdAddr : Addr
  /-- `OCPS_ADDR`. -/
  ocpsAddr : Addr
  /-- `OCPD_ADDR`. -/
  ocpdAddr : Addr
  /-- `OAM_BASE`: first address of the 160-byte sprite window. -/
  oamBase : Addr
  /-- `DMG_SHADES`: ARGB value of monochrome shades 0..3 (R232). -/
  dmgShades : Vector Argb 4
  /-- `BLANK_COLOR`: the "fixed background color" of a blanked line (R193). -/
  blankColor : Argb
  /-- `RGB555_TO_ARGB`, "15-bit-to-32-bit color table lookup" (R12): the entries of the table that differ from
  the default formula of R236, by 15-bit value. Any function from u15 to u32 is such a list. -/
  colorTable : List (Rgb15 × Argb)
  /-- `LYC_WRITE_RECHECK`: a write to LYC re-runs checkLYC (R286). -/
  lycWriteRecheck : Bool
  /-- `CGB_OBJ_BEHIND_NEEDS_BG_NONZERO`: reading of the colour-mode sprite rule (R226). -/
  cgbObjBehindNeedsBgNonzero : Bool
  deriving DecidableEq, Repr

/-- The spec's default of every parameter (R12). -/
def Config.default : Config where
  colorMode := false
  regBase := 0xFF40
  vbkAddr := 0xFF4F
  bcpsAddr := 0xFF68
  bcpdAddr := 0xFF69
  ocpsAddr := 0xFF6A
  ocpdAddr := 0xFF6B
  oamBase := 0xFE00
  dmgShades := #v[0xFFFFFFFF, 0xFFAAAAAA, 0xFF555555, 0xFF000000]
  blankColor := 0xFFFFFFFF
  colorTable := []
  lycWriteRecheck := false
  cgbObjBehindNeedsBgNonzero := false

/-- A run of bus addresses, in unbounded arithmetic (R15). -/
structure Window where
  base : Nat
  size : Nat
  deriving DecidableEq, Repr

/-- The address lies in the window. -/
def Window.contains (w : Window) (a : Addr) : Bool :=
  decide (w.base ≤ a.toNat) && decide (a.toNat < w.base + w.size)

/-- Two windows share no address. -/
abbrev Window.Disjoint (v w : Window) : Prop :=
  v.base + v.size ≤ w.base ∨ w.base + w.size ≤ v.base

/-- Every window the block decodes (R114 to R117; R97). -/
def Config.windows (c : Config) : List Window :=
  [⟨0x8000, 0x2000⟩, ⟨c.regBase.toNat, 12⟩, ⟨c.oamBase.toNat, 160⟩, ⟨c.vbkAddr.toNat, 1⟩,
   ⟨c.bcpsAddr.toNat, 1⟩, ⟨c.bcpdAddr.toNat, 1⟩, ⟨c.ocpsAddr.toNat, 1⟩, ⟨c.ocpdAddr.toNat, 1⟩]

/-- The premise of R13: the decoded windows are disjoint from each other and from 8000h–9FFFh.
DEDUCED (log entry 12): each also ends inside the 16-bit address space, since an address is a u16. Safe. -/
abbrev Config.Valid (c : Config) : Prop :=
  c.windows.Pairwise Window.Disjoint ∧ ∀ w ∈ c.windows, w.base + w.size ≤ 0x10000

end Sys2Proof
end

