-- ==== Sys2Proof/Syntax.lean ====
section
/-! DEFINITION. What can be asked of the block: its port operations (spec/30_encoding.md R110) and the operations
they decode to, one constructor per row of spec/opcode_table.json. -/

namespace Sys2Proof

/-- The four modes of the sequencer (R45, R140). -/
inductive Mode where
  /-- Mode 0, HBlank. -/
  | hblank
  /-- Mode 1, VBlank. -/
  | vblank
  /-- Mode 2, OAM search. -/
  | oamSearch
  /-- Mode 3, pixel transfer. -/
  | pixelTransfer
  deriving DecidableEq, Repr

/-- The registers of the register window, in the order of their offsets 0 to 0xB (R114).
`base6` is offset 6, where the table has no register. -/
inductive Reg where
  | lcdc
  | stat
  | scy
  | scx
  | ly
  | lyc
  | base6
  | bgp
  | obp0
  | obp1
  | wy
  | wx
  deriving DecidableEq, Repr

/-- The colour-mode registers outside the register window (R115). -/
inductive CgbReg where
  | vbk
  | bcps
  | bcpd
  | ocps
  | ocpd
  deriving DecidableEq, Repr

/-- What a bus address selects (R114 to R118, R120). -/
inductive Target where
  /-- A register of the window at `REG_BASE` (R114). -/
  | reg (r : Reg)
  /-- A colour-mode register (R115). -/
  | cgb (r : CgbReg)
  /-- A byte of the VRAM window, by its offset from 8000h (R116). -/
  | vram (off : BitVec 13)
  /-- A byte of the OAM window, by its index from `OAM_BASE` (R117). -/
  | oam (index : BitVec 8)
  /-- An address in none of the windows (R120). -/
  | unmapped (addr : Addr)
  deriving DecidableEq, Repr

/-- A port operation as it is delivered (R110): a bus transaction, ADV or RL. The formats BUS_R and BUS_W are
one constructor, told apart by bit 16 of the word (R111, R123). -/
inductive PortOp where
  /-- The 17-bit transaction word, with the data byte that travels beside it (R111). A read ignores the data. -/
  | bus (word : BitVec 17) (data : Byte)
  /-- Port `advance(dots)` (R112). -/
  | advance (dots : Nat)
  /-- Port `renderLine(ly)`, the direct call (R113). -/
  | renderLine (ly : Byte)
  deriving DecidableEq, Repr

/-- The operations of the block, one constructor per row of spec/opcode_table.json. -/
inductive Instr where
  /-- READ_LCDC (R275). -/
  | readLcdc
  /-- WRITE_LCDC (R276). -/
  | writeLcdc (data : Byte)
  /-- READ_STAT (R277). -/
  | readStat
  /-- WRITE_STAT (R278). -/
  | writeStat (data : Byte)
  /-- READ_SCY (R279). -/
  | readScy
  /-- WRITE_SCY (R280). -/
  | writeScy (data : Byte)
  /-- READ_SCX (R281). -/
  | readScx
  /-- WRITE_SCX (R282). -/
  | writeScx (data : Byte)
  /-- READ_LY (R283). -/
  | readLy
  /-- WRITE_LY (R284). -/
  | writeLy (data : Byte)
  /-- READ_LYC (R285). -/
  | readLyc
  /-- WRITE_LYC (R286). -/
  | writeLyc (data : Byte)
  /-- READ_BASE6 (R287). -/
  | readBase6
  /-- WRITE_BASE6 (R288). -/
  | writeBase6 (data : Byte)
  /-- READ_BGP (R289). -/
  | readBgp
  /-- WRITE_BGP (R290). -/
  | writeBgp (data : Byte)
  /-- READ_OBP0 (R291). -/
  | readObp0
  /-- WRITE_OBP0 (R292). -/
  | writeObp0 (data : Byte)
  /-- READ_OBP1 (R293). -/
  | readObp1
  /-- WRITE_OBP1 (R294). -/
  | writeObp1 (data : Byte)
  /-- READ_WY (R295). -/
  | readWy
  /-- WRITE_WY (R296). -/
  | writeWy (data : Byte)
  /-- READ_WX (R297). -/
  | readWx
  /-- WRITE_WX (R298). -/
  | writeWx (data : Byte)
  /-- READ_VBK (R299). -/
  | readVbk
  /-- WRITE_VBK (R300). -/
  | writeVbk (data : Byte)
  /-- READ_BCPS (R261). -/
  | readBcps
  /-- WRITE_BCPS (R260). -/
  | writeBcps (data : Byte)
  /-- READ_BCPD (R258). -/
  | readBcpd
  /-- WRITE_BCPD (R256). -/
  | writeBcpd (data : Byte)
  /-- READ_OCPS (R263). -/
  | readOcps
  /-- WRITE_OCPS (R262). -/
  | writeOcps (data : Byte)
  /-- READ_OCPD (R259). -/
  | readOcpd
  /-- WRITE_OCPD (R257). -/
  | writeOcpd (data : Byte)
  /-- READ_VRAM (R301): offset bits 12..0 of an address in 8000h–9FFFh. -/
  | readVram (off : BitVec 13)
  /-- WRITE_VRAM (R302). -/
  | writeVram (off : BitVec 13) (data : Byte)
  /-- READ_OAM (R303): index 0..159 into the OAM window. -/
  | readOam (index : BitVec 8)
  /-- WRITE_OAM (R304). -/
  | writeOam (index : BitVec 8) (data : Byte)
  /-- READ_UNMAPPED (R273). -/
  | readUnmapped (addr : Addr)
  /-- WRITE_UNMAPPED (R274). -/
  | writeUnmapped (addr : Addr) (data : Byte)
  /-- ADVANCE (R142). -/
  | advance (dots : Nat)
  /-- RENDER_LINE (R190). -/
  | renderLine (ly : Byte)
  /-- T23, Mode 2 to Mode 3 (R147). -/
  | t23
  /-- T30, Mode 3 to Mode 0 (R148). -/
  | t30
  /-- T02, Mode 0 to Mode 2 (R149). -/
  | t02
  /-- T01, VBlank entry (R150). -/
  | t01
  /-- T11, VBlank line step (R151). -/
  | t11
  /-- T12, frame wrap (R152). -/
  | t12
  deriving DecidableEq, Repr

end Sys2Proof
end

