-- ==== Sys2Proof/WellFormed.lean ====
section
/-! DEFINITION. Which terms of `Instr` are operations of the block under given parameters: an OAM index lies in
the 160-byte window (spec/30_encoding.md R117) and an unmapped address lies in no window (R120). Every other
operand fills its type. -/

namespace Sys2Proof

/-- An address that lies in none of the decoded windows (R118, R120). -/
def Config.isUnmapped (c : Config) (a : Addr) : Bool :=
  c.windows.all fun w => !w.contains a

/-- The operand checks of R117 and R120. -/
def Instr.wellFormed (c : Config) : Instr → Bool
  | .readLcdc => true
  | .writeLcdc _ => true
  | .readStat => true
  | .writeStat _ => true
  | .readScy => true
  | .writeScy _ => true
  | .readScx => true
  | .writeScx _ => true
  | .readLy => true
  | .writeLy _ => true
  | .readLyc => true
  | .writeLyc _ => true
  | .readBase6 => true
  | .writeBase6 _ => true
  | .readBgp => true
  | .writeBgp _ => true
  | .readObp0 => true
  | .writeObp0 _ => true
  | .readObp1 => true
  | .writeObp1 _ => true
  | .readWy => true
  | .writeWy _ => true
  | .readWx => true
  | .writeWx _ => true
  | .readVbk => true
  | .writeVbk _ => true
  | .readBcps => true
  | .writeBcps _ => true
  | .readBcpd => true
  | .writeBcpd _ => true
  | .readOcps => true
  | .writeOcps _ => true
  | .readOcpd => true
  | .writeOcpd _ => true
  | .readVram _ => true
  | .writeVram _ _ => true
  | .readOam i => decide (i.toNat < 160)
  | .writeOam i _ => decide (i.toNat < 160)
  | .readUnmapped a => c.isUnmapped a
  | .writeUnmapped a _ => c.isUnmapped a
  | .advance _ => true
  | .renderLine _ => true
  | .t23 => true
  | .t30 => true
  | .t02 => true
  | .t01 => true
  | .t11 => true
  | .t12 => true

end Sys2Proof
end

