-- ==== Sys2Proof/Decode.lean ====
section
/-! DEFINITION. Decoding of a port operation (spec/30_encoding.md R111 to R123) and of the sequencer's next
internal transition (R122), and the encoder that lays out a port operation for an instruction. Decoding is
total (R118): an address in no window is unmapped. -/

namespace Sys2Proof

/-- Offset of a register from `REG_BASE` (R114). -/
def Reg.offset : Reg → Nat
  | .lcdc => 0
  | .stat => 1
  | .scy => 2
  | .scx => 3
  | .ly => 4
  | .lyc => 5
  | .base6 => 6
  | .bgp => 7
  | .obp0 => 8
  | .obp1 => 9
  | .wy => 10
  | .wx => 11

/-- The register at an offset 0..0xB from `REG_BASE` (R114). -/
def Reg.ofOffset : Nat → Reg
  | 0 => .lcdc
  | 1 => .stat
  | 2 => .scy
  | 3 => .scx
  | 4 => .ly
  | 5 => .lyc
  | 6 => .base6
  | 7 => .bgp
  | 8 => .obp0
  | 9 => .obp1
  | 10 => .wy
  | _ => .wx

/-- Address of a colour-mode register (R115). -/
def Config.cgbAddr (c : Config) : CgbReg → Addr
  | .vbk => c.vbkAddr
  | .bcps => c.bcpsAddr
  | .bcpd => c.bcpdAddr
  | .ocps => c.ocpsAddr
  | .ocpd => c.ocpdAddr

/-- What a bus address selects (R114 to R118). The windows are disjoint when the parameters are valid (R13), so
the order of the tests does not matter then. A colour-mode register's address selects it in both modes; that it
acts as unmapped in monochrome mode (R115) is in its meaning (log entry 6). -/
def decodeTarget (c : Config) (a : Addr) : Target :=
  if 0x8000 ≤ a.toNat ∧ a.toNat ≤ 0x9FFF then .vram (BitVec.ofNat 13 (a.toNat - 0x8000))
  else if c.regBase.toNat ≤ a.toNat ∧ a.toNat ≤ c.regBase.toNat + 0xB then
    .reg (Reg.ofOffset (a.toNat - c.regBase.toNat))
  else if c.oamBase.toNat ≤ a.toNat ∧ a.toNat < c.oamBase.toNat + 160 then
    .oam (BitVec.ofNat 8 (a.toNat - c.oamBase.toNat))
  else if a = c.vbkAddr then .cgb .vbk
  else if a = c.bcpsAddr then .cgb .bcps
  else if a = c.bcpdAddr then .cgb .bcpd
  else if a = c.ocpsAddr then .cgb .ocps
  else if a = c.ocpdAddr then .cgb .ocpd
  else .unmapped a

/-- The bus address of a target: the encoding side of `decodeTarget`. -/
def Target.addr (c : Config) : Target → Addr
  | .reg r => c.regBase + BitVec.ofNat 16 r.offset
  | .cgb r => c.cgbAddr r
  | .vram off => 0x8000 + off.setWidth 16
  | .oam i => c.oamBase + i.setWidth 16
  | .unmapped a => a

/-- The BUS_R operation of a target (rows READ_* of the table). -/
def Target.readInstr : Target → Instr
  | .reg .lcdc => .readLcdc
  | .reg .stat => .readStat
  | .reg .scy => .readScy
  | .reg .scx => .readScx
  | .reg .ly => .readLy
  | .reg .lyc => .readLyc
  | .reg .base6 => .readBase6
  | .reg .bgp => .readBgp
  | .reg .obp0 => .readObp0
  | .reg .obp1 => .readObp1
  | .reg .wy => .readWy
  | .reg .wx => .readWx
  | .cgb .vbk => .readVbk
  | .cgb .bcps => .readBcps
  | .cgb .bcpd => .readBcpd
  | .cgb .ocps => .readOcps
  | .cgb .ocpd => .readOcpd
  | .vram off => .readVram off
  | .oam i => .readOam i
  | .unmapped a => .readUnmapped a

/-- The BUS_W operation of a target with its data byte (rows WRITE_* of the table). -/
def Target.writeInstr (data : Byte) : Target → Instr
  | .reg .lcdc => .writeLcdc data
  | .reg .stat => .writeStat data
  | .reg .scy => .writeScy data
  | .reg .scx => .writeScx data
  | .reg .ly => .writeLy data
  | .reg .lyc => .writeLyc data
  | .reg .base6 => .writeBase6 data
  | .reg .bgp => .writeBgp data
  | .reg .obp0 => .writeObp0 data
  | .reg .obp1 => .writeObp1 data
  | .reg .wy => .writeWy data
  | .reg .wx => .writeWx data
  | .cgb .vbk => .writeVbk data
  | .cgb .bcps => .writeBcps data
  | .cgb .bcpd => .writeBcpd data
  | .cgb .ocps => .writeOcps data
  | .cgb .ocpd => .writeOcpd data
  | .vram off => .writeVram off data
  | .oam i => .writeOam i data
  | .unmapped a => .writeUnmapped a data

/-- The 17-bit transaction word: bit 16 is `w`, bits 15..0 the address (R111). -/
def busWord (w : Bool) (a : Addr) : BitVec 17 :=
  BitVec.ofBool w ++ a

/-- Decode of a port operation: by its port, and on the bus by `w` and the address (R123, R114 to R118). -/
def decode (c : Config) : PortOp → Instr
  | .bus word data =>
    let t := decodeTarget c (word.setWidth 16)
    if word[16] then t.writeInstr data else t.readInstr
  | .advance d => .advance d
  | .renderLine ly => .renderLine ly

/-- Selection of the sequencer's next internal transition by the mode and the condition on LY (R122). -/
def decodeSeq (m : Mode) (ly : Byte) : Instr :=
  match m with
  | .oamSearch => .t23
  | .pixelTransfer => .t30
  | .hblank => if ly.toNat + 1 < 144 then .t02 else .t01
  | .vblank => if ly.toNat + 1 ≤ 153 then .t11 else .t12

/-- The BUS_R operation that reads a target; a read carries no data, its data byte is written 0. -/
def Target.encodeRead (c : Config) (t : Target) : PortOp :=
  .bus (busWord false (t.addr c)) 0

/-- The BUS_W operation that writes a target. -/
def Target.encodeWrite (c : Config) (data : Byte) (t : Target) : PortOp :=
  .bus (busWord true (t.addr c)) data

/-- The port operation an instruction is delivered as; an internal transition has none (R110: SEQ is
"internal; no port"). -/
def encode (c : Config) : Instr → Option PortOp
  | .readLcdc => some (Target.encodeRead c (.reg .lcdc))
  | .writeLcdc d => some (Target.encodeWrite c d (.reg .lcdc))
  | .readStat => some (Target.encodeRead c (.reg .stat))
  | .writeStat d => some (Target.encodeWrite c d (.reg .stat))
  | .readScy => some (Target.encodeRead c (.reg .scy))
  | .writeScy d => some (Target.encodeWrite c d (.reg .scy))
  | .readScx => some (Target.encodeRead c (.reg .scx))
  | .writeScx d => some (Target.encodeWrite c d (.reg .scx))
  | .readLy => some (Target.encodeRead c (.reg .ly))
  | .writeLy d => some (Target.encodeWrite c d (.reg .ly))
  | .readLyc => some (Target.encodeRead c (.reg .lyc))
  | .writeLyc d => some (Target.encodeWrite c d (.reg .lyc))
  | .readBase6 => some (Target.encodeRead c (.reg .base6))
  | .writeBase6 d => some (Target.encodeWrite c d (.reg .base6))
  | .readBgp => some (Target.encodeRead c (.reg .bgp))
  | .writeBgp d => some (Target.encodeWrite c d (.reg .bgp))
  | .readObp0 => some (Target.encodeRead c (.reg .obp0))
  | .writeObp0 d => some (Target.encodeWrite c d (.reg .obp0))
  | .readObp1 => some (Target.encodeRead c (.reg .obp1))
  | .writeObp1 d => some (Target.encodeWrite c d (.reg .obp1))
  | .readWy => some (Target.encodeRead c (.reg .wy))
  | .writeWy d => some (Target.encodeWrite c d (.reg .wy))
  | .readWx => some (Target.encodeRead c (.reg .wx))
  | .writeWx d => some (Target.encodeWrite c d (.reg .wx))
  | .readVbk => some (Target.encodeRead c (.cgb .vbk))
  | .writeVbk d => some (Target.encodeWrite c d (.cgb .vbk))
  | .readBcps => some (Target.encodeRead c (.cgb .bcps))
  | .writeBcps d => some (Target.encodeWrite c d (.cgb .bcps))
  | .readBcpd => some (Target.encodeRead c (.cgb .bcpd))
  | .writeBcpd d => some (Target.encodeWrite c d (.cgb .bcpd))
  | .readOcps => some (Target.encodeRead c (.cgb .ocps))
  | .writeOcps d => some (Target.encodeWrite c d (.cgb .ocps))
  | .readOcpd => some (Target.encodeRead c (.cgb .ocpd))
  | .writeOcpd d => some (Target.encodeWrite c d (.cgb .ocpd))
  | .readVram off => some (Target.encodeRead c (.vram off))
  | .writeVram off d => some (Target.encodeWrite c d (.vram off))
  | .readOam i => some (Target.encodeRead c (.oam i))
  | .writeOam i d => some (Target.encodeWrite c d (.oam i))
  | .readUnmapped a => some (Target.encodeRead c (.unmapped a))
  | .writeUnmapped a d => some (Target.encodeWrite c d (.unmapped a))
  | .advance d => some (.advance d)
  | .renderLine ly => some (.renderLine ly)
  | .t23 => none
  | .t30 => none
  | .t02 => none
  | .t01 => none
  | .t11 => none
  | .t12 => none

/-- The instruction the decoder reads from a transaction word given as a number, bit 0 its least significant,
under the default addresses, which the table uses (R111). The word is 17 bits, padded with zeros to whole bytes; a number
that does not fit 17 bits is no transaction word and is refused. The data byte beside the word is 0
(log entry 13). -/
def decodeTableWord (nbits w : Nat) : Option Instr :=
  if w % 2 ^ nbits < 2 ^ 17 then
    some (decode Config.default (.bus (BitVec.ofNat 17 (w % 2 ^ nbits)) 0))
  else none

end Sys2Proof
end

