-- ==== Sys2Proof/Machine/State.lean ====
section
/-! DEFINITION. The state of the block (spec/10_state.md R30 to R50), the parameters it runs under (R12), the
operations waiting at its ports and what it has put out. Plain data. -/

namespace Sys2Proof.Machine

/-- A byte memory: (address, byte) pairs, addresses strictly rising, no pair holding what an unlisted address
reads as. -/
abbrev Memory := List Host.Cell

/-- What an unlisted byte of VRAM or OAM reads as: the spec's default launch contents (R55, D7; log entry 9). -/
def Memory.unlisted : Byte := 0

/-- Index register of a palette table: "6-bit index + auto-increment flag" (R39, R250). Bit 6 is not stored. -/
structure PalIndex where
  index : BitVec 6
  autoInc : Bool
  deriving DecidableEq, Repr

/-- One palette table: 8 palettes of 4 entries of 15 bits (R40). -/
abbrev Palettes := Vector (Vector Rgb15 4) 8

/-- One row of the Frame Store (R50). -/
abbrev FrameRow := Vector Argb columns

/-- The Frame Store (R50). -/
abbrev Frame := Vector FrameRow rows

/-- The sources of a STAT interrupt request (R18, R333). -/
inductive StatSource where
  | hblank
  | vblank
  | oam
  | lyc
  deriving DecidableEq, Repr

/-- The events of R18. -/
inductive Event where
  /-- `IRQ_VBLANK` (R333). -/
  | irqVblank
  /-- `IRQ_STAT(src)` (R333). -/
  | irqStat (src : StatSource)
  /-- `LINE_READY(ly)` (R350). -/
  | lineReady (ly : Byte)
  /-- `FRAME_READY` (R350). -/
  | frameReady
  /-- `HDMA_HBLANK`, the hook call (R349). -/
  | hdmaHblank
  deriving DecidableEq, Repr

/-- One VRAM write the HDMA collaborator makes inside a hook call: an offset in the bus window and a byte
(R349, R101; log entry 5). -/
abbrev HookWrite := BitVec 13 × Byte

/-- The state of the block. -/
structure State where
  /-- The parameters of R12, constant for the session (R56; log entry 1). -/
  cfg : Config
  /-- LCDC (R31). -/
  lcdc : Byte
  /-- STAT bits 7..3 (R32); bit 0 here is STAT bit 3. -/
  statHi : BitVec 5
  /-- STAT bit 2, the coincidence flag (R32, R153). -/
  coincidence : Bool
  /-- LY (R33). -/
  ly : Byte
  /-- LYC (R34). -/
  lyc : Byte
  /-- SCY (R35). -/
  scy : Byte
  /-- SCX (R35). -/
  scx : Byte
  /-- WY (R36). -/
  wy : Byte
  /-- WX (R36). -/
  wx : Byte
  /-- BGP (R37). -/
  bgp : Byte
  /-- OBP0 (R37). -/
  obp0 : Byte
  /-- OBP1 (R37). -/
  obp1 : Byte
  /-- VBK, one stored bit (R38). -/
  vbk : BitVec 1
  /-- BCPS (R39). -/
  bcps : PalIndex
  /-- OCPS (R39). -/
  ocps : PalIndex
  /-- BGPAL (R40). -/
  bgPal : Palettes
  /-- OBJPAL (R40). -/
  objPal : Palettes
  /-- VRAM at its flat index b*0x2000 + o (R41). -/
  vram : Memory
  /-- OAM, bytes 0..159 (R42). -/
  oam : Memory
  /-- The sequencer's mode, which is also STAT bits 1..0 (R45). -/
  mode : Mode
  /-- The dot accumulator (R46). -/
  acc : Nat
  /-- The window-line counter (R47). -/
  windowLine : Byte
  /-- The sprite list of the last OAM search; `spriteCount` is its length (R48; log entry 8). -/
  spriteList : List (Fin 40)
  /-- The transient colour-index buffer (R49). -/
  idxBuf : Vector (BitVec 2) columns
  /-- The transient "background has priority" buffer (R49). -/
  prioBuf : Vector Bool columns
  /-- The Frame Store (R50). -/
  frame : Frame
  /-- Port operations not yet performed, next first (R98, R385; log entry 3). -/
  pending : List PortOp
  /-- What the HDMA collaborator will write at each coming hook call, next first; past its end no transfer is
  armed (R349; log entry 5). -/
  hookWrites : List (List HookWrite)
  /-- The events emitted so far, oldest first (R18, R385; log entry 4). -/
  events : List Event
  /-- The bytes returned by bus reads so far, oldest first (R110; log entry 4). -/
  reads : List Byte
  deriving DecidableEq, Repr

/-- Why the machine stops with a fault: it never does. "There are no recoverable-error or exception conditions
in this subsystem by design" (R330), so the type has no constructor; nothing raises one (safe). -/
inductive Fault
  deriving DecidableEq, Repr

/-- Why an operation is refused. -/
inductive Refusal where
  /-- An arm of `exec` that has no meaning yet; no arm of this model answers it (safe). -/
  | notModelled (mnemonic : String)
  /-- RENDER_LINE with `ly` ≥ 144, raised by its meaning only: "a contract violation caught by tests, not a
  runtime error" (R121, R191, R332). Safe: the spec refuses it. -/
  | renderLineNotVisible (ly : Byte)
  deriving DecidableEq, Repr

/-- The launch parameters INIT_REGS, INIT_VRAM, INIT_OAM, INIT_PAL, INIT_FRAME (R12, R370). -/
structure Launch where
  lcdc : Byte
  statHi : BitVec 5
  lyc : Byte
  scy : Byte
  scx : Byte
  wy : Byte
  wx : Byte
  bgp : Byte
  obp0 : Byte
  obp1 : Byte
  vbk : BitVec 1
  bcps : PalIndex
  ocps : PalIndex
  vram : Memory
  oam : Memory
  bgPal : Palettes
  objPal : Palettes
  frame : Frame
  deriving DecidableEq, Repr

/-- The spec's default launch contents: all zero (R12, D7; log entry 2). -/
def Launch.zero : Launch where
  lcdc := 0
  statHi := 0
  lyc := 0
  scy := 0
  scx := 0
  wy := 0
  wx := 0
  bgp := 0
  obp0 := 0
  obp1 := 0
  vbk := 0
  bcps := ⟨0, false⟩
  ocps := ⟨0, false⟩
  vram := []
  oam := []
  bgPal := Vector.replicate 8 (Vector.replicate 4 0)
  objPal := Vector.replicate 8 (Vector.replicate 4 0)
  frame := Vector.replicate rows (Vector.replicate columns 0)

/-- The machine right after power-on reset (R55, R370) with the default parameters and launch contents of R12:
mode 2, acc 0, LY 0, window line 0, STAT bit 2 = (LY == LYC), the sprite list of a search over an all-zero OAM
(no record is visible), buffers clear; nothing waits at the ports and nothing has been put out.
The launch contents are a DESIGN CHOICE of the spec (D7; log entry 2, unsafe). -/
def State.reset : State where
  cfg := Config.default
  lcdc := 0
  statHi := 0
  coincidence := true
  ly := 0
  lyc := 0
  scy := 0
  scx := 0
  wy := 0
  wx := 0
  bgp := 0
  obp0 := 0
  obp1 := 0
  vbk := 0
  bcps := ⟨0, false⟩
  ocps := ⟨0, false⟩
  bgPal := Vector.replicate 8 (Vector.replicate 4 0)
  objPal := Vector.replicate 8 (Vector.replicate 4 0)
  vram := []
  oam := []
  mode := .oamSearch
  acc := 0
  windowLine := 0
  spriteList := []
  idxBuf := Vector.replicate columns 0
  prioBuf := Vector.replicate columns false
  frame := Vector.replicate rows (Vector.replicate columns 0)
  pending := []
  hookWrites := []
  events := []
  reads := []

end Sys2Proof.Machine
end

