-- ==== Sys2Proof/Machine/Ops.lean ====
section
/-! DEFINITION. The named operations over memory, registers and ports: the memory primitives of spec/00_scope.md
R17, event emission (R18), the request to the interrupt collaborator (spec/60_exceptions.md R335), the HDMA hook
(R349), and the queue of port operations. The block takes no exception and has no return from one (R330, R339,
R340): a request is one event. -/

namespace Sys2Proof.Machine

/-! ### Byte memories -/

/-- The canonical form: addresses strictly rising, no pair holding what an unlisted address reads as. -/
abbrev Memory.wf (m : Memory) : Prop :=
  m.Pairwise (fun c d => c.1 < d.1) ∧ ∀ c ∈ m, c.2 ≠ Memory.unlisted

/-- The byte at an address. -/
def Memory.read : Memory → Nat → Byte
  | [], _ => Memory.unlisted
  | (b, v) :: t, a => if a = b then v else Memory.read t a

/-- The memory with one byte written, in canonical form: a byte that an unlisted address would read as is not
listed. -/
def Memory.write : Memory → Nat → Byte → Memory
  | [], a, v => if v = Memory.unlisted then [] else [(a, v)]
  | (b, w) :: t, a, v =>
    if a < b then (if v = Memory.unlisted then (b, w) :: t else (a, v) :: (b, w) :: t)
    else if a = b then (if v = Memory.unlisted then t else (a, v) :: t)
    else (b, w) :: Memory.write t a v

/-- Flat index of a VRAM byte: `b*0x2000 + o`, the offset reduced mod 0x2000 first (R17, R41, R96). -/
def vramIndex (bank : BitVec 1) (off : Nat) : Nat :=
  bank.toNat * 0x2000 + off % 0x2000

/-- `VramRead(bank, off)` (R17). -/
def State.vramRead (s : State) (bank : BitVec 1) (off : Nat) : Byte :=
  s.vram.read (vramIndex bank off)

/-- `VramWrite(bank, off, v)` (R17). -/
def State.vramWrite (s : State) (bank : BitVec 1) (off : Nat) (v : Byte) : State :=
  { s with vram := s.vram.write (vramIndex bank off) v }

/-- `OamRead(i)`, the index reduced mod 160 (R17, R96). -/
def State.oamRead (s : State) (i : Nat) : Byte :=
  s.oam.read (i % 160)

/-- `OamWrite(i, v)` (R17). -/
def State.oamWrite (s : State) (i : Nat) (v : Byte) : State :=
  { s with oam := s.oam.write (i % 160) v }

/-- The bank the bus window reaches: "bank 1 only reachable in color mode" (R82). -/
def State.busBank (s : State) : BitVec 1 :=
  if s.cfg.colorMode then s.vbk else 0

/-- A write through the bus window of VRAM (R82, R302). -/
def State.busVramWrite (s : State) (off : BitVec 13) (v : Byte) : State :=
  s.vramWrite s.busBank off.toNat v

/-! ### Palette RAM -/

/-- `PalRead` on one table (R17). -/
def Palettes.read (t : Palettes) (p : BitVec 3) (c : BitVec 2) : Rgb15 :=
  (t[p.toNat]'p.isLt)[c.toNat]'c.isLt

/-- `PalWrite` on one table (R17). -/
def Palettes.write (t : Palettes) (p : BitVec 3) (c : BitVec 2) (v : Rgb15) : Palettes :=
  t.set p.toNat ((t[p.toNat]'p.isLt).set c.toNat v c.isLt) p.isLt

/-! ### Frame Store -/

/-- `FrameWrite(ly, col, line[col])` for every column of a row, the row reduced into range (R229, R43;
log entry 10). -/
def State.frameWriteRow (s : State) (ly : Byte) (row : FrameRow) : State :=
  { s with frame := s.frame.set (ly.toNat % rows) row (Nat.mod_lt _ (by decide)) }

/-! ### Outputs -/

/-- `emit E` (R18). -/
def State.emit (s : State) (e : Event) : State :=
  { s with events := s.events ++ [e] }

/-- One call of `requestInterrupt` for an enabled STAT source; nothing for a disabled one (R334, R335). -/
def State.requestStatIf (s : State) (enabled : Bool) (src : StatSource) : State :=
  if enabled then s.emit (.irqStat src) else s

/-- The byte a BUS_R returns (R110, R272). -/
def State.returnByte (s : State) (b : Byte) : State :=
  { s with reads := s.reads ++ [b] }

/-- The VRAM writes of one hook call, in order (R349, R101). -/
def State.applyHookWrites (s : State) (ws : List HookWrite) : State :=
  ws.foldl (fun t w => t.busVramWrite w.1 w.2) s

/-- The call of `hbramChunk()`: the event `HDMA_HBLANK`, then what the collaborator does inside the call
(R148, R349; log entry 5). -/
def State.callHdmaHook (s : State) : State :=
  let s := s.emit .hdmaHblank
  match s.hookWrites with
  | [] => s
  | ws :: rest => ({ s with hookWrites := rest }).applyHookWrites ws

/-! ### Unmapped accesses -/

/-- A read of an unmapped sub-address returns the all-ones sentinel (R120, R273). -/
def State.unmappedRead (s : State) : State :=
  s.returnByte 0xFF

/-- A write to an unmapped sub-address changes nothing (R120, R274). -/
def State.unmappedWrite (s : State) : State := s

/-! ### The queue of port operations -/

/-- The next port operation, with the state after it is taken (R98, R385; log entry 3). -/
def State.fetch (s : State) : Option (PortOp × State) :=
  match s.pending with
  | [] => none
  | op :: rest => some (op, { s with pending := rest })

/-- The state with a transaction word placed as the next port operation, data byte 0 (log entry 13). -/
def State.placeWord (s : State) (nbits w : Nat) : State :=
  { s with pending := .bus (BitVec.ofNat 17 (w % 2 ^ nbits)) 0 :: s.pending }

end Sys2Proof.Machine
end

