-- ==== Sys2Proof/Machine/Operands.lean ====
section
/-! DEFINITION. Every operand form of the spec: the masks a register applies to a written byte
(spec/30_encoding.md R119), the fields of LCDC, of an OAM record and of a map attribute byte, the split of a
palette index, the tile addresses, and the two palette conversions. -/

namespace Sys2Proof.Machine

/-! ### LCDC fields (R31) -/

/-- Bit 7, display enable. -/
def State.displayOn (s : State) : Bool := s.lcdc[7]
/-- Bit 6, window tile-map select. -/
def State.windowMapSel (s : State) : Bool := s.lcdc[6]
/-- Bit 5, window enable. -/
def State.windowOn (s : State) : Bool := s.lcdc[5]
/-- Bit 4, tile-data addressing mode. -/
def State.tileUnsigned (s : State) : Bool := s.lcdc[4]
/-- Bit 3, background tile-map select. -/
def State.bgMapSel (s : State) : Bool := s.lcdc[3]
/-- Sprite height from bit 2: 16 or 8 (R155, R212). -/
def State.spriteHeight (s : State) : Nat := if s.lcdc[2] then 16 else 8
/-- Bit 1, sprite enable. -/
def State.spritesOn (s : State) : Bool := s.lcdc[1]
/-- Bit 0, background and window enable. -/
def State.bgOn (s : State) : Bool := s.lcdc[0]

/-! ### Written bytes (R119) -/

/-- STAT keeps bits 7..3 (R278). -/
def statHiOf (data : Byte) : BitVec 5 := data.extractLsb' 3 5

/-- VBK keeps bit 0 (R300). -/
def vbkOf (data : Byte) : BitVec 1 := data.extractLsb' 0 1

/-- BCPS and OCPS keep bits 5..0 and bit 7 (R260, R262). -/
def palIndexOf (data : Byte) : PalIndex := ⟨data.extractLsb' 0 6, data[7]⟩

/-- BCPS and OCPS as read: bit 7, bit 6 as 0, bits 5..0 (R261, R263). -/
def PalIndex.toByte (x : PalIndex) : Byte := BitVec.ofBool x.autoInc ++ 0#1 ++ x.index

/-- VBK as read: `0xFE | VBK` (R299). -/
def vbkByte (v : BitVec 1) : Byte := 0xFE ||| v.setWidth 8

/-! ### Palette index (R252 to R255) -/

/-- Palette number of an index, `i >> 3`. -/
def palOf (i : BitVec 6) : BitVec 3 := i.extractLsb' 3 3

/-- Colour number of an index, `(i >> 1) & 3`. -/
def colorOf (i : BitVec 6) : BitVec 2 := i.extractLsb' 1 2

/-- An odd index addresses the high byte. -/
def isHighByte (i : BitVec 6) : Bool := i[0]

/-- The merge of a written byte into a 15-bit entry: bits 7..0 for the low byte (R253), bits 14..8 for the high
byte, its bit 7 dropped (R254). -/
def mergeEntry (high : Bool) (v : Rgb15) (data : Byte) : Rgb15 :=
  if high then data.extractLsb' 0 7 ++ v.extractLsb' 0 8
  else v.extractLsb' 8 7 ++ data

/-- The byte of a 15-bit entry an index addresses: bits 7..0, or bits 14..8 with bit 7 as 0 (R258). -/
def entryByte (high : Bool) (v : Rgb15) : Byte :=
  if high then (v.extractLsb' 8 7).setWidth 8 else v.extractLsb' 0 8

/-- Auto-increment: the index advances mod 64, the flag is kept (R255). -/
def PalIndex.advance (x : PalIndex) : PalIndex :=
  if x.autoInc then { x with index := x.index + 1 } else x

/-! ### Tile addresses and formats -/

/-- `MAPBASE` (R197). -/
def mapBase (sel : Bool) : Nat := if sel then 0x1C00 else 0x1800

/-- Map offset of the entry of a plane point: `row*32 + column` (R198). -/
def mapOffset (sel : Bool) (px py : BitVec 8) : Nat :=
  mapBase sel + py.toNat / 8 * 32 + px.toNat / 8

/-- `TILEBASE`: unsigned from 8000h, or signed from 9000h (R200). -/
def tileBase (unsigned : Bool) (t : Byte) : Nat :=
  if unsigned then t.toNat * 16 else (0x1000 + t.toInt * 16).toNat

/-- Colour index from the two bit-planes at a bit number: `{hi[b], lo[b]}` (R202, R92). -/
def planeIndex (lo hi : Byte) (b : Nat) : BitVec 2 :=
  BitVec.ofBool (hi.getLsbD b) ++ BitVec.ofBool (lo.getLsbD b)

/-! ### OAM record (R89, R90) -/

/-- Y of a record. -/
def State.recY (s : State) (n : Fin 40) : Byte := s.oamRead (4 * n.val)
/-- X of a record. -/
def State.recX (s : State) (n : Fin 40) : Byte := s.oamRead (4 * n.val + 1)
/-- Tile index of a record. -/
def State.recTile (s : State) (n : Fin 40) : Byte := s.oamRead (4 * n.val + 2)
/-- Attribute byte of a record. -/
def State.recAttr (s : State) (n : Fin 40) : Byte := s.oamRead (4 * n.val + 3)

/-! ### Palettes and colours -/

/-- Palette multiplexer, monochrome: `(P >> 2·ci) & 3` (R231, R91). -/
def shade (p : Byte) (ci : BitVec 2) : BitVec 2 := p.extractLsb' (2 * ci.toNat) 2

/-- The Frame Store value of a shade (R232). -/
def State.shadeColor (s : State) (x : BitVec 2) : Argb := s.cfg.dmgShades[x.toNat]'x.isLt

/-- Widening of a 5-bit channel, `(k << 3) | (k >> 2)` (R236). -/
def widen5 (k : BitVec 5) : BitVec 8 := k ++ k.extractLsb' 2 3

/-- The default formula of `RGB555_TO_ARGB` (R236). -/
def rgb555Formula (v : Rgb15) : Argb :=
  0xFF#8 ++ widen5 (v.extractLsb' 0 5) ++ widen5 (v.extractLsb' 5 5) ++ widen5 (v.extractLsb' 10 5)

/-- `RGB555_TO_ARGB` (R12, R236): the parameter's table, the default formula where it lists no other value. -/
def State.rgbColor (s : State) (v : Rgb15) : Argb :=
  match s.cfg.colorTable.lookup v with
  | some c => c
  | none => rgb555Formula v

end Sys2Proof.Machine
end

