-- ==== Sys2Proof/Machine/Flags.lean ====
section
/-! DEFINITION. The STAT register: its mode bits, its enables and the coincidence check
(spec/10_state.md R32, spec/40_sequencer.md R153, R154). -/

namespace Sys2Proof.Machine

/-- The mode as STAT bits 1..0 show it (R32, R45). -/
def modeBits : Mode → BitVec 2
  | .hblank => 0
  | .vblank => 1
  | .oamSearch => 2
  | .pixelTransfer => 3

/-- STAT as read: bits 7..3 stored, bit 2 the coincidence flag, bits 1..0 the mode (R277). -/
def State.stat (s : State) : Byte :=
  s.statHi ++ BitVec.ofBool s.coincidence ++ modeBits s.mode

/-- The enable of a STAT source: bit 3 HBlank, bit 4 VBlank, bit 5 OAM, bit 6 LYC (R32, R333). -/
def State.statEnable (s : State) : StatSource → Bool
  | .hblank => s.statHi[0]
  | .vblank => s.statHi[1]
  | .oam => s.statHi[2]
  | .lyc => s.statHi[3]

/-- A request of one STAT source, if its enable is set at this instant (R334). -/
def State.requestStat (s : State) (src : StatSource) : State :=
  s.requestStatIf (s.statEnable src) src

/-- checkLYC: the flag becomes LY == LYC, and a match with the LYC enable set requests an interrupt (R153). -/
def State.checkLyc (s : State) : State :=
  let hit := s.ly == s.lyc
  ({ s with coincidence := hit }).requestStatIf (hit && s.statEnable .lyc) .lyc

end Sys2Proof.Machine
end

