-- ==== Sys2Proof/Machine/Compositor.lean ====
section
/-! DEFINITION. The Scanline Compositor (spec/41_compositor.md): the tile fetcher, the background, window and
sprite passes, and RENDER_LINE. The passes are written for one column each, since no pass reads another column
of the line it draws (R235); log entry 14. -/

namespace Sys2Proof.Machine

/-! ### Tile fetcher -/

/-- What the tile fetcher returns: colour index, priority attribute, background palette number (R196). -/
structure TilePixel where
  ci : BitVec 2
  prio : Bool
  pal : BitVec 3
  deriving DecidableEq, Repr

/-- The map-attribute byte of a map entry: bank 1 at the entry's offset in colour mode, 0 in monochrome mode
(R196, R199). -/
def State.mapAttr (s : State) (mOff : Nat) : Byte :=
  if s.cfg.colorMode then s.vramRead 1 mOff else 0

/-- fetchTilePixel (R196 to R202). -/
def State.fetchTilePixel (s : State) (mapSel : Bool) (px py : BitVec 8) : TilePixel :=
  let mOff := mapOffset mapSel px py
  let tIdx := s.vramRead 0 mOff
  let attr := s.mapAttr mOff
  let r := if attr[6] then 7 - py.toNat % 8 else py.toNat % 8
  let c := if attr[5] then 7 - px.toNat % 8 else px.toNat % 8
  let tBase := tileBase s.tileUnsigned tIdx
  let bank := attr.extractLsb' 3 1
  let lo := s.vramRead bank (tBase + 2 * r)
  let hi := s.vramRead bank (tBase + 2 * r + 1)
  ⟨planeIndex lo hi (7 - c), attr[7], attr.extractLsb' 0 3⟩

/-- bgColor: through BGP in monochrome mode (R204), through the background palette table in colour mode
(R205). -/
def State.bgColor (s : State) (ci : BitVec 2) (pal : BitVec 3) : Argb :=
  if s.cfg.colorMode then s.rgbColor (s.bgPal.read pal ci) else s.shadeColor (shade s.bgp ci)

/-! ### One column of the working row and of the transient buffers -/

/-- `line[col]`, `idxBuf[col]` and `prioBuf[col]` of one column. -/
structure Pixel where
  color : Argb
  idx : BitVec 2
  prio : Bool
  deriving DecidableEq, Repr

/-- A column before any pass (R194). -/
def State.blankPixel (s : State) : Pixel := ⟨s.cfg.blankColor, 0, false⟩

/-- What the background and window passes store for a fetched tile pixel (R195, R203, R206, R210). -/
def State.layerPixel (s : State) (t : TilePixel) : Pixel :=
  ⟨s.bgColor t.ci t.pal, t.ci, s.cfg.colorMode && t.prio⟩

/-- One column of bgPass: the plane point `((SCX+col) mod 256, (SCY+ly) mod 256)` (R195). -/
def State.bgPixel (s : State) (ly : Byte) (col : Nat) : Pixel :=
  s.layerPixel (s.fetchTilePixel s.bgMapSel (s.scx + BitVec.ofNat 8 col) (s.scy + ly))

/-- First screen column of the window, `WX - 7` (R207). -/
def State.windowX (s : State) : Int := (s.wx.toNat : Int) - 7

/-- windowPass is run and draws on this line: LCDC.5 and LCDC.0 set (R192), `ly ≥ WY` and the window's first
column within 0..159 (R206, R207). -/
def State.windowDraws (s : State) (ly : Byte) : Bool :=
  s.windowOn && s.bgOn && decide (s.wy.toNat ≤ ly.toNat) && decide (0 ≤ s.windowX) && decide (s.windowX ≤ 159)

/-- One column of windowPass: source row `windowLine`, source column the screen column minus `WX - 7`
(R206, R208, R209). -/
def State.windowPixel (s : State) (col : Nat) : Pixel :=
  s.layerPixel (s.fetchTilePixel s.windowMapSel (BitVec.ofInt 8 (col - s.windowX)) s.windowLine)

/-- One column after the background and window passes: the window overwrites the background in the columns it
draws (R192, R206, R210), and a column no pass writes keeps the blank values (R194). -/
def State.basePixel (s : State) (ly : Byte) (col : Nat) : Pixel :=
  if s.windowDraws ly && decide (s.windowX ≤ col) then s.windowPixel col
  else if s.bgOn then s.bgPixel ly col
  else s.blankPixel

/-! ### Sprite pass -/

/-- The sprites in priority order, highest first: by ascending X with the record order as tie-break in
monochrome mode (R214), in record order in colour mode (R215). -/
def State.spriteOrder (s : State) : List (Fin 40) :=
  if s.cfg.colorMode then s.spriteList
  else s.spriteList.insertionSort fun m n => (s.recX m).toNat ≤ (s.recX n).toNat

/-- Row of a record's tile data on a line, after the vertical flip; none when the line is outside the sprite
(R218, R219). -/
def State.spriteRow (s : State) (ly : Byte) (n : Fin 40) : Option Nat :=
  let row : Int := (ly.toNat : Int) + 16 - (s.recY n).toNat
  if 0 ≤ row ∧ row < s.spriteHeight then
    some (if (s.recAttr n)[6] then s.spriteHeight - 1 - row.toNat else row.toNat)
  else none

/-- Offset of a sprite's tile data: unsigned addressing, bit 0 of the index ignored for 8×16 (R212, R220). -/
def State.spriteTileBase (s : State) (n : Fin 40) : Nat :=
  (if s.spriteHeight = 16 then s.recTile n &&& 0xFE else s.recTile n).toNat * 16

/-- Bank of a sprite's tile data (R221). -/
def State.spriteBank (s : State) (n : Fin 40) : BitVec 1 :=
  if s.cfg.colorMode then (s.recAttr n).extractLsb' 3 1 else 0

/-- Colour index of a sprite at a screen column; none where it has no pixel there (R222, R224). -/
def State.spriteIndex (s : State) (ly : Byte) (n : Fin 40) (col : Nat) : Option (BitVec 2) :=
  match s.spriteRow ly n with
  | none => none
  | some row =>
    let c : Int := (col : Int) + 8 - (s.recX n).toNat
    if 0 ≤ c ∧ c ≤ 7 then
      let lo := s.vramRead (s.spriteBank n) (s.spriteTileBase n + 2 * row)
      let hi := s.vramRead (s.spriteBank n) (s.spriteTileBase n + 2 * row + 1)
      some (planeIndex lo hi (if (s.recAttr n)[5] then c.toNat else 7 - c.toNat))
    else none

/-- hiddenByBackground (R225 in monochrome mode, R226 in colour mode). -/
def State.hiddenByBackground (s : State) (attr : Byte) (idx : BitVec 2) (prio : Bool) : Bool :=
  let behind := attr[7]
  let opaqueBg := idx != 0
  if s.cfg.colorMode then
    if s.cfg.cgbObjBehindNeedsBgNonzero then (prio || behind) && opaqueBg
    else (prio && opaqueBg) || behind
  else behind && opaqueBg

/-- objColor (R227 in monochrome mode, R228 in colour mode). -/
def State.objColor (s : State) (attr : Byte) (ci : BitVec 2) : Argb :=
  if s.cfg.colorMode then s.rgbColor (s.objPal.read (attr.extractLsb' 0 3) ci)
  else s.shadeColor (shade (if attr[4] then s.obp1 else s.obp0) ci)

/-- What one sprite draws over one column of a line whose transient buffers hold `p`; none where it draws
nothing (R212, R223 to R226). -/
def State.spritePixel (s : State) (ly : Byte) (col : Nat) (p : Pixel) (n : Fin 40) : Option Argb :=
  match s.spriteIndex ly n col with
  | none => none
  | some ci =>
    if ci = 0 then none
    else if s.hiddenByBackground (s.recAttr n) p.idx p.prio then none
    else some (s.objColor (s.recAttr n) ci)

/-- One column of spritePass: the sprites drawn lowest priority first, each drawn pixel replacing what the row
holds (R212, R216). -/
def State.spriteColumn (s : State) (ly : Byte) (col : Nat) (p : Pixel) : Argb :=
  s.spriteOrder.reverse.foldl (fun line n => (s.spritePixel ly col p n).getD line) p.color

/-- The final value of a column: the sprite pass runs when LCDC.1 is set (R192). -/
def State.finalColor (s : State) (ly : Byte) (col : Nat) (p : Pixel) : Argb :=
  if s.spritesOn then s.spriteColumn ly col p else p.color

/-! ### The line operation -/

/-- The columns of a line after the background and window passes. -/
def State.baseLine (s : State) (ly : Byte) : Vector Pixel columns :=
  Vector.ofFn fun col => s.basePixel ly col.val

/-- renderLine with the display disabled: the row is BLANK_COLOR and nothing else changes (R193). -/
def State.blankLine (s : State) (ly : Byte) : State :=
  s.frameWriteRow ly (Vector.replicate columns s.cfg.blankColor)

/-- renderLine with the display enabled (R192, R194, R211, R229). -/
def State.drawLine (s : State) (ly : Byte) : State :=
  let base := s.baseLine ly
  let row := Vector.ofFn fun col : Fin columns => s.finalColor ly col.val base[col]
  ({ s with
      idxBuf := Vector.ofFn fun col : Fin columns => base[col].idx
      prioBuf := Vector.ofFn fun col : Fin columns => base[col].prio
      windowLine := if s.windowDraws ly then s.windowLine + 1 else s.windowLine }).frameWriteRow ly row

/-- renderLine (R192). -/
def State.renderLine (s : State) (ly : Byte) : State :=
  if s.displayOn then s.drawLine ly else s.blankLine ly

/-- RENDER_LINE, the direct call: admitted for `ly` ≤ 143 at any time, refused otherwise (R190, R191). -/
def execRenderLine (ly : Byte) (s : State) : Host.Outcome State Fault Refusal :=
  if ly.toNat < rows then .next (s.renderLine ly) else .refused (.renderLineNotVisible ly)

end Sys2Proof.Machine
end

