-- ==== Sys2Proof/Machine/Sequencer.lean ====
section
/-! DEFINITION. The Mode Sequencer (spec/40_sequencer.md): durations, OAM search, restart, the six internal
transitions, ADVANCE, and the power-on reset with any launch contents (spec/70_reset_and_hazards.md R370). -/

namespace Sys2Proof.Machine

/-- `DURATION(mode)` in dots (R140). -/
def duration : Mode → Nat
  | .oamSearch => 80
  | .pixelTransfer => 172
  | .hblank => 204
  | .vblank => 456

/-! ### OAM search -/

/-- A record is visible on LY: `0 ≤ LY + 16 − Y < h` (R155, R156). -/
def State.spriteVisible (s : State) (n : Fin 40) : Bool :=
  let row : Int := (s.ly.toNat : Int) + 16 - (s.recY n).toNat
  decide (0 ≤ row) && decide (row < s.spriteHeight)

/-- oamSearch: the first 10 visible records in record order (R155, R157). -/
def State.oamSearch (s : State) : State :=
  { s with spriteList := ((List.finRange 40).filter s.spriteVisible).take 10 }

/-! ### Restart -/

/-- restart (R162). -/
def State.restart (s : State) : State :=
  ({ s with ly := 0, windowLine := 0, acc := 0, mode := .oamSearch }).checkLyc.oamSearch

/-! ### The transitions

LY + 1 is compared in unbounded arithmetic and stored in its low 8 bits (R15; log entry 11). -/

/-- T23 (R147). -/
def State.t23 (s : State) : State :=
  { s with mode := .pixelTransfer }

/-- T30 (R148). -/
def State.t30 (s : State) : State :=
  let s := ({ s with mode := .hblank }).renderLine s.ly
  let s := s.emit (.lineReady s.ly)
  let s := s.requestStat .hblank
  s.callHdmaHook

/-- T02 (R149). -/
def State.t02 (s : State) : State :=
  let s := ({ s with ly := s.ly + 1 }).checkLyc
  ({ s with mode := .oamSearch }).oamSearch.requestStat .oam

/-- T01 (R150). -/
def State.t01 (s : State) : State :=
  let s := ({ s with ly := s.ly + 1 }).checkLyc
  ((({ s with mode := .vblank }).requestStat .vblank).emit .irqVblank).emit .frameReady

/-- T11 (R151). -/
def State.t11 (s : State) : State :=
  ({ s with ly := s.ly + 1 }).checkLyc

/-- T12 (R152). -/
def State.t12 (s : State) : State :=
  let s := ({ s with ly := 0, windowLine := 0 }).checkLyc
  ({ s with mode := .oamSearch }).oamSearch.requestStat .oam

/-! ### advance -/

/-- The transition the loop of `advance` performs, selected by the mode and LY (R122, R142). -/
def State.transition (s : State) : State :=
  match s.mode with
  | .oamSearch => s.t23
  | .pixelTransfer => s.t30
  | .hblank => if s.ly.toNat + 1 < 144 then s.t02 else s.t01
  | .vblank => if s.ly.toNat + 1 ≤ 153 then s.t11 else s.t12

/-- One turn of the loop: subtract the duration, then perform the transition (R142). -/
def State.turn (s : State) : State :=
  ({ s with acc := s.acc - duration s.mode }).transition

/-- The loop of `advance`, at most `fuel` turns (R142). -/
def State.runTurns : Nat → State → State
  | 0, s => s
  | fuel + 1, s => if duration s.mode ≤ s.acc then State.runTurns fuel s.turn else s

/-- advance(d): the loop ends by itself after `floor((acc + d) / 80)` turns at most (R142). -/
def State.advance (s : State) (d : Nat) : State :=
  State.runTurns ((s.acc + d) / 80) { s with acc := s.acc + d }

/-- ADVANCE (R142). -/
def execAdvance (d : Nat) (s : State) : Host.Outcome State Fault Refusal :=
  .next (s.advance d)

/-! ### The transitions as rows of the table

A transition is selected by the mode and LY (R122); one that is not selected does not fire, and nothing changes
(DESIGN CHOICE, log entry 7, safe). The dots are taken by the loop of `advance` before the transition (R142), so
the row itself is its pseudocode. -/

/-- T23 (R147): selected in mode 2. -/
def execT23 (s : State) : Host.Outcome State Fault Refusal :=
  if s.mode = .oamSearch then .next s.t23 else .next s

/-- T30 (R148): selected in mode 3. -/
def execT30 (s : State) : Host.Outcome State Fault Refusal :=
  if s.mode = .pixelTransfer then .next s.t30 else .next s

/-- T02 (R149): selected in mode 0 with LY + 1 < 144. -/
def execT02 (s : State) : Host.Outcome State Fault Refusal :=
  if s.mode = .hblank ∧ s.ly.toNat + 1 < 144 then .next s.t02 else .next s

/-- T01 (R150): selected in mode 0 with LY + 1 ≥ 144. -/
def execT01 (s : State) : Host.Outcome State Fault Refusal :=
  if s.mode = .hblank ∧ 144 ≤ s.ly.toNat + 1 then .next s.t01 else .next s

/-- T11 (R151): selected in mode 1 with LY + 1 ≤ 153. -/
def execT11 (s : State) : Host.Outcome State Fault Refusal :=
  if s.mode = .vblank ∧ s.ly.toNat + 1 ≤ 153 then .next s.t11 else .next s

/-- T12 (R152): selected in mode 1 with LY + 1 > 153. -/
def execT12 (s : State) : Host.Outcome State Fault Refusal :=
  if s.mode = .vblank ∧ 153 < s.ly.toNat + 1 then .next s.t12 else .next s

/-! ### Power-on reset -/

/-- Power-on reset with any parameters and launch contents (R370): the launch contents loaded, the buffers
cleared, the restart steps without events. -/
def State.powerOn (c : Config) (l : Launch) : State :=
  State.oamSearch
    { State.reset with
      cfg := c
      lcdc := l.lcdc
      statHi := l.statHi
      lyc := l.lyc
      scy := l.scy
      scx := l.scx
      wy := l.wy
      wx := l.wx
      bgp := l.bgp
      obp0 := l.obp0
      obp1 := l.obp1
      vbk := l.vbk
      bcps := l.bcps
      ocps := l.ocps
      vram := l.vram
      oam := l.oam
      bgPal := l.bgPal
      objPal := l.objPal
      frame := l.frame
      coincidence := 0 == l.lyc }

end Sys2Proof.Machine
end

