-- ==== Sys2Proof/Machine/Palette.lean ====
section
/-! DEFINITION. The colour-mode palette registers (spec/42_palette.md). In monochrome mode each is unmapped
(R264). -/

namespace Sys2Proof.Machine

/-- updatePalette on the background table: merge the byte, then auto-increment (R251). -/
def State.updateBgPalette (s : State) (data : Byte) : State :=
  let i := s.bcps.index
  let v := mergeEntry (isHighByte i) (s.bgPal.read (palOf i) (colorOf i)) data
  { s with bgPal := s.bgPal.write (palOf i) (colorOf i) v, bcps := s.bcps.advance }

/-- updatePalette on the object table (R251). -/
def State.updateObjPalette (s : State) (data : Byte) : State :=
  let i := s.ocps.index
  let v := mergeEntry (isHighByte i) (s.objPal.read (palOf i) (colorOf i)) data
  { s with objPal := s.objPal.write (palOf i) (colorOf i) v, ocps := s.ocps.advance }

/-- The byte of a table its index register addresses (R258, R259). -/
def paletteByte (t : Palettes) (x : PalIndex) : Byte :=
  entryByte (isHighByte x.index) (t.read (palOf x.index) (colorOf x.index))

/-- READ_BCPS (R261; monochrome R264). -/
def execReadBcps (s : State) : Host.Outcome State Fault Refusal :=
  if s.cfg.colorMode then .next (s.returnByte s.bcps.toByte) else .next s.unmappedRead

/-- WRITE_BCPS (R260; monochrome R264). -/
def execWriteBcps (data : Byte) (s : State) : Host.Outcome State Fault Refusal :=
  if s.cfg.colorMode then .next { s with bcps := palIndexOf data } else .next s.unmappedWrite

/-- READ_BCPD (R258; monochrome R264). -/
def execReadBcpd (s : State) : Host.Outcome State Fault Refusal :=
  if s.cfg.colorMode then .next (s.returnByte (paletteByte s.bgPal s.bcps)) else .next s.unmappedRead

/-- WRITE_BCPD (R256; monochrome R264). -/
def execWriteBcpd (data : Byte) (s : State) : Host.Outcome State Fault Refusal :=
  if s.cfg.colorMode then .next (s.updateBgPalette data) else .next s.unmappedWrite

/-- READ_OCPS (R263; monochrome R264). -/
def execReadOcps (s : State) : Host.Outcome State Fault Refusal :=
  if s.cfg.colorMode then .next (s.returnByte s.ocps.toByte) else .next s.unmappedRead

/-- WRITE_OCPS (R262; monochrome R264). -/
def execWriteOcps (data : Byte) (s : State) : Host.Outcome State Fault Refusal :=
  if s.cfg.colorMode then .next { s with ocps := palIndexOf data } else .next s.unmappedWrite

/-- READ_OCPD (R259; monochrome R264). -/
def execReadOcpd (s : State) : Host.Outcome State Fault Refusal :=
  if s.cfg.colorMode then .next (s.returnByte (paletteByte s.objPal s.ocps)) else .next s.unmappedRead

/-- WRITE_OCPD (R257; monochrome R264). -/
def execWriteOcpd (data : Byte) (s : State) : Host.Outcome State Fault Refusal :=
  if s.cfg.colorMode then .next (s.updateObjPalette data) else .next s.unmappedWrite

end Sys2Proof.Machine
end

