-- ==== Sys2Proof/Machine/Registers.lean ====
section
/-! DEFINITION. Bus reads and writes of the register window at `REG_BASE` (spec/43_bus_access.md section 2),
one definition per row. A read returns a byte and changes nothing else (R270). -/

namespace Sys2Proof.Machine

/-- READ_LCDC (R275). -/
def execReadLcdc (s : State) : Host.Outcome State Fault Refusal :=
  .next (s.returnByte s.lcdc)

/-- WRITE_LCDC: a change of bit 7 restarts the sequencer (R276). -/
def execWriteLcdc (data : Byte) (s : State) : Host.Outcome State Fault Refusal :=
  let t := { s with lcdc := data }
  if s.lcdc[7] = data[7] then .next t else .next t.restart

/-- READ_STAT (R277). -/
def execReadStat (s : State) : Host.Outcome State Fault Refusal :=
  .next (s.returnByte s.stat)

/-- WRITE_STAT: bits 7..3 only (R278). -/
def execWriteStat (data : Byte) (s : State) : Host.Outcome State Fault Refusal :=
  .next { s with statHi := statHiOf data }

/-- READ_SCY (R279). -/
def execReadScy (s : State) : Host.Outcome State Fault Refusal :=
  .next (s.returnByte s.scy)

/-- WRITE_SCY (R280). -/
def execWriteScy (data : Byte) (s : State) : Host.Outcome State Fault Refusal :=
  .next { s with scy := data }

/-- READ_SCX (R281). -/
def execReadScx (s : State) : Host.Outcome State Fault Refusal :=
  .next (s.returnByte s.scx)

/-- WRITE_SCX (R282). -/
def execWriteScx (data : Byte) (s : State) : Host.Outcome State Fault Refusal :=
  .next { s with scx := data }

/-- READ_LY (R283). -/
def execReadLy (s : State) : Host.Outcome State Fault Refusal :=
  .next (s.returnByte s.ly)

/-- WRITE_LY: LY and the window-line counter become 0 whatever the data, then checkLYC (R284). -/
def execWriteLy (_data : Byte) (s : State) : Host.Outcome State Fault Refusal :=
  .next ({ s with ly := 0, windowLine := 0 }).checkLyc

/-- READ_LYC (R285). -/
def execReadLyc (s : State) : Host.Outcome State Fault Refusal :=
  .next (s.returnByte s.lyc)

/-- WRITE_LYC: checkLYC only with `LYC_WRITE_RECHECK` (R286). -/
def execWriteLyc (data : Byte) (s : State) : Host.Outcome State Fault Refusal :=
  let t := { s with lyc := data }
  .next (if s.cfg.lycWriteRecheck then t.checkLyc else t)

/-- READ_BASE6: no register there, the sentinel (R287). -/
def execReadBase6 (s : State) : Host.Outcome State Fault Refusal :=
  .next s.unmappedRead

/-- WRITE_BASE6: no register there, no change (R288). -/
def execWriteBase6 (_data : Byte) (s : State) : Host.Outcome State Fault Refusal :=
  .next s.unmappedWrite

/-- READ_BGP (R289). -/
def execReadBgp (s : State) : Host.Outcome State Fault Refusal :=
  .next (s.returnByte s.bgp)

/-- WRITE_BGP (R290). -/
def execWriteBgp (data : Byte) (s : State) : Host.Outcome State Fault Refusal :=
  .next { s with bgp := data }

/-- READ_OBP0 (R291). -/
def execReadObp0 (s : State) : Host.Outcome State Fault Refusal :=
  .next (s.returnByte s.obp0)

/-- WRITE_OBP0 (R292). -/
def execWriteObp0 (data : Byte) (s : State) : Host.Outcome State Fault Refusal :=
  .next { s with obp0 := data }

/-- READ_OBP1 (R293). -/
def execReadObp1 (s : State) : Host.Outcome State Fault Refusal :=
  .next (s.returnByte s.obp1)

/-- WRITE_OBP1 (R294). -/
def execWriteObp1 (data : Byte) (s : State) : Host.Outcome State Fault Refusal :=
  .next { s with obp1 := data }

/-- READ_WY (R295). -/
def execReadWy (s : State) : Host.Outcome State Fault Refusal :=
  .next (s.returnByte s.wy)

/-- WRITE_WY (R296). -/
def execWriteWy (data : Byte) (s : State) : Host.Outcome State Fault Refusal :=
  .next { s with wy := data }

/-- READ_WX (R297). -/
def execReadWx (s : State) : Host.Outcome State Fault Refusal :=
  .next (s.returnByte s.wx)

/-- WRITE_WX (R298). -/
def execWriteWx (data : Byte) (s : State) : Host.Outcome State Fault Refusal :=
  .next { s with wx := data }

end Sys2Proof.Machine
end

