-- ==== Sys2Proof/Machine/VideoMemory.lean ====
section
/-! DEFINITION. Bus accesses of VBK, VRAM, OAM and unmapped addresses (spec/43_bus_access.md sections 1, 3, 4).
VRAM and OAM are reached in every mode (spec/20_memory.md R104). -/

namespace Sys2Proof.Machine

/-- READ_VBK: `0xFE | VBK` in colour mode (R299), unmapped in monochrome mode (R273). -/
def execReadVbk (s : State) : Host.Outcome State Fault Refusal :=
  if s.cfg.colorMode then .next (s.returnByte (vbkByte s.vbk)) else .next s.unmappedRead

/-- WRITE_VBK: bit 0 in colour mode (R300), unmapped in monochrome mode (R274). -/
def execWriteVbk (data : Byte) (s : State) : Host.Outcome State Fault Refusal :=
  if s.cfg.colorMode then .next { s with vbk := vbkOf data } else .next s.unmappedWrite

/-- READ_VRAM (R301, R82). -/
def execReadVram (off : BitVec 13) (s : State) : Host.Outcome State Fault Refusal :=
  .next (s.returnByte (s.vramRead s.busBank off.toNat))

/-- WRITE_VRAM (R302, R82). -/
def execWriteVram (off : BitVec 13) (data : Byte) (s : State) : Host.Outcome State Fault Refusal :=
  .next (s.busVramWrite off data)

/-- READ_OAM (R303, R83). -/
def execReadOam (index : BitVec 8) (s : State) : Host.Outcome State Fault Refusal :=
  .next (s.returnByte (s.oamRead index.toNat))

/-- WRITE_OAM: the sprite list is not refreshed (R304, R102). -/
def execWriteOam (index : BitVec 8) (data : Byte) (s : State) : Host.Outcome State Fault Refusal :=
  .next (s.oamWrite index.toNat data)

/-- READ_UNMAPPED (R273). -/
def execReadUnmapped (_addr : Addr) (s : State) : Host.Outcome State Fault Refusal :=
  .next s.unmappedRead

/-- WRITE_UNMAPPED (R274). -/
def execWriteUnmapped (_addr : Addr) (_data : Byte) (s : State) : Host.Outcome State Fault Refusal :=
  .next s.unmappedWrite

end Sys2Proof.Machine
end

