-- ==== Sys2Proof/Machine/Dispatch.lean ====
section
/-! DEFINITION. The one match from an instruction to its meaning, an arm per constructor of `Instr`. -/

namespace Sys2Proof.Machine

def exec (i : Instr) (s : State) : Host.Outcome State Fault Refusal :=
  match i with
  | .readLcdc => Sys2Proof.Machine.execReadLcdc s
  | .writeLcdc data => Sys2Proof.Machine.execWriteLcdc data s
  | .readStat => Sys2Proof.Machine.execReadStat s
  | .writeStat data => Sys2Proof.Machine.execWriteStat data s
  | .readScy => Sys2Proof.Machine.execReadScy s
  | .writeScy data => Sys2Proof.Machine.execWriteScy data s
  | .readScx => Sys2Proof.Machine.execReadScx s
  | .writeScx data => Sys2Proof.Machine.execWriteScx data s
  | .readLy => Sys2Proof.Machine.execReadLy s
  | .writeLy data => Sys2Proof.Machine.execWriteLy data s
  | .readLyc => Sys2Proof.Machine.execReadLyc s
  | .writeLyc data => Sys2Proof.Machine.execWriteLyc data s
  | .readBase6 => Sys2Proof.Machine.execReadBase6 s
  | .writeBase6 data => Sys2Proof.Machine.execWriteBase6 data s
  | .readBgp => Sys2Proof.Machine.execReadBgp s
  | .writeBgp data => Sys2Proof.Machine.execWriteBgp data s
  | .readObp0 => Sys2Proof.Machine.execReadObp0 s
  | .writeObp0 data => Sys2Proof.Machine.execWriteObp0 data s
  | .readObp1 => Sys2Proof.Machine.execReadObp1 s
  | .writeObp1 data => Sys2Proof.Machine.execWriteObp1 data s
  | .readWy => Sys2Proof.Machine.execReadWy s
  | .writeWy data => Sys2Proof.Machine.execWriteWy data s
  | .readWx => Sys2Proof.Machine.execReadWx s
  | .writeWx data => Sys2Proof.Machine.execWriteWx data s
  | .readVbk => Sys2Proof.Machine.execReadVbk s
  | .writeVbk data => Sys2Proof.Machine.execWriteVbk data s
  | .readBcps => Sys2Proof.Machine.execReadBcps s
  | .writeBcps data => Sys2Proof.Machine.execWriteBcps data s
  | .readBcpd => Sys2Proof.Machine.execReadBcpd s
  | .writeBcpd data => Sys2Proof.Machine.execWriteBcpd data s
  | .readOcps => Sys2Proof.Machine.execReadOcps s
  | .writeOcps data => Sys2Proof.Machine.execWriteOcps data s
  | .readOcpd => Sys2Proof.Machine.execReadOcpd s
  | .writeOcpd data => Sys2Proof.Machine.execWriteOcpd data s
  | .readVram off => Sys2Proof.Machine.execReadVram off s
  | .writeVram off data => Sys2Proof.Machine.execWriteVram off data s
  | .readOam index => Sys2Proof.Machine.execReadOam index s
  | .writeOam index data => Sys2Proof.Machine.execWriteOam index data s
  | .readUnmapped addr => Sys2Proof.Machine.execReadUnmapped addr s
  | .writeUnmapped addr data => Sys2Proof.Machine.execWriteUnmapped addr data s
  | .advance dots => Sys2Proof.Machine.execAdvance dots s
  | .renderLine ly => Sys2Proof.Machine.execRenderLine ly s
  | .t23 => Sys2Proof.Machine.execT23 s
  | .t30 => Sys2Proof.Machine.execT30 s
  | .t02 => Sys2Proof.Machine.execT02 s
  | .t01 => Sys2Proof.Machine.execT01 s
  | .t11 => Sys2Proof.Machine.execT11 s
  | .t12 => Sys2Proof.Machine.execT12 s

end Sys2Proof.Machine
end

