-- ==== Sys2Proof/Machine/Step.lean ====
section
/-! DEFINITION. One step of the machine: the next port operation is taken, decoded and performed whole
(spec/20_memory.md R98). -/

namespace Sys2Proof.Machine

/-- One step. With no operation waiting the block stands still: it moves only inside a port operation, and it
never halts (R98, R385; log entry 3). -/
def step (s : State) : Host.Outcome State Fault Refusal :=
  match s.fetch with
  | none => .next s
  | some (op, s') => exec (decode s'.cfg op) s'

/-- The state with a transaction word placed as the operation the next step performs (log entry 13). -/
def State.withFetchWord (s : State) (nbits w : Nat) : State :=
  s.placeWord nbits w

end Sys2Proof.Machine
end

