-- ==== Sys2Proof/Safety.lean ====
section
/-! DEFINITION. What the statements call a good state: the invariants the spec gives the block
(spec/10_state.md R57, spec/40_sequencer.md R144, R160) and the canonical form of the memories; and the terms
several statements share. -/

namespace Sys2Proof.Machine

/-! ### Invariants -/

/-- The memories are in canonical form and list no address outside their space (R41, R42, R43). -/
abbrev State.MemoryOk (s : State) : Prop :=
  s.vram.wf ∧ s.oam.wf ∧ (∀ c ∈ s.vram, c.1 < 0x4000) ∧ ∀ c ∈ s.oam, c.1 < 160

/-- The carry invariant: `acc < DURATION(mode)` (R144). -/
abbrev State.CarryOk (s : State) : Prop := s.acc < duration s.mode

/-- The LY invariant: `LY ≤ 143` in modes 2, 3 and 0, `LY ≤ 153` in mode 1 (R160). -/
abbrev State.LyOk (s : State) : Prop :=
  if s.mode = .vblank then s.ly.toNat ≤ 153 else s.ly.toNat ≤ 143

/-- The sprite-list invariant: at most 10 records, strictly increasing (R57). -/
abbrev State.SpritesOk (s : State) : Prop :=
  s.spriteList.length ≤ 10 ∧ s.spriteList.Pairwise (· < ·)

/-- The launch contents of VRAM and OAM are memories of the block. -/
abbrev Launch.Ok (l : Launch) : Prop :=
  l.vram.wf ∧ l.oam.wf ∧ (∀ c ∈ l.vram, c.1 < 0x4000) ∧ ∀ c ∈ l.oam, c.1 < 160

/-! ### Terms of the statements -/

/-- Number of a mode in STAT bits 1..0 (R32). -/
def modeNumber : Mode → Nat
  | .hblank => 0
  | .vblank => 1
  | .oamSearch => 2
  | .pixelTransfer => 3

/-- The sprite list is what one OAM search over the present LY, LCDC.2 and OAM selects: the visible records with
fewer than 10 visible records below them, in ascending order (R155, R157). -/
abbrev State.ListIsSearched (s : State) : Prop :=
  s.spriteList.length ≤ 10 ∧ s.spriteList.Pairwise (· < ·) ∧
  ∀ n : Fin 40, n ∈ s.spriteList ↔
    (s.oam.read (4 * n.val)).toNat ≤ s.ly.toNat + 16 ∧
    s.ly.toNat + 16 < (s.oam.read (4 * n.val)).toNat + (if s.lcdc[2] then 16 else 8) ∧
    ((List.finRange 40).filter fun m => decide (m < n) &&
      decide ((s.oam.read (4 * m.val)).toNat ≤ s.ly.toNat + 16) &&
      decide (s.ly.toNat + 16 < (s.oam.read (4 * m.val)).toNat + (if s.lcdc[2] then 16 else 8))).length < 10

/-- Two states agree in every field a renderLine reads (R230). -/
abbrev SameRenderInputs (s u : State) : Prop :=
  s.cfg = u.cfg ∧ s.lcdc = u.lcdc ∧ s.scy = u.scy ∧ s.scx = u.scx ∧ s.wy = u.wy ∧ s.wx = u.wx ∧
  s.bgp = u.bgp ∧ s.obp0 = u.obp0 ∧ s.obp1 = u.obp1 ∧ s.bgPal = u.bgPal ∧ s.objPal = u.objPal ∧
  s.vram = u.vram ∧ s.oam = u.oam ∧ s.spriteList = u.spriteList ∧ s.windowLine = u.windowLine

/-- The event, if the condition holds. -/
def eventIf (b : Bool) (e : Event) : List Event := if b then [e] else []

/-- The event is a `LINE_READY`. -/
def isLineReady : Event → Bool
  | .irqVblank => false
  | .irqStat _ => false
  | .lineReady _ => true
  | .frameReady => false
  | .hdmaHblank => false

/-- Colour index of bit `b` of a tile row, in numbers: `2·hi[b] + lo[b]` (R202). -/
def planeNumber (lo hi : Byte) (b : Nat) : Nat := 2 * (hi.getLsbD b).toNat + (lo.getLsbD b).toNat

/-- Colour of index `ci` through a monochrome palette byte, in numbers: `(P >> 2·ci) & 3` (R231, R232). -/
def shadeOf (c : Config) (p : Byte) (ci : Nat) : Argb :=
  c.dmgShades.get ⟨p.toNat / 4 ^ ci % 4, Nat.mod_lt _ (by decide)⟩

/-- A 5-bit channel widened, in numbers: `(k << 3) | (k >> 2)` (R236). -/
def widened (k : Nat) : Nat := k * 8 + k / 4

/-- `RGB555_TO_ARGB` in numbers: the value the parameter's table gives, where it gives one, and otherwise
`0xFF000000 | E(r) << 16 | E(g) << 8 | E(b)`, red in bits 4..0, green in 9..5, blue in 14..10 (R12, R236). -/
def argbOf (c : Config) (v : Rgb15) : Argb :=
  (c.colorTable.lookup v).getD (BitVec.ofNat 32 (0xFF000000 + widened (v.toNat % 32) * 0x10000 +
    widened (v.toNat / 32 % 32) * 0x100 + widened (v.toNat / 1024)))

/-- The entry of a palette table that index `i` addresses: palette `i >> 3`, colour `(i >> 1) & 3` (R252). -/
def entryOf (t : Palettes) (i : Nat) : Rgb15 := (t.get (Fin.ofNat 8 (i / 8))).get (Fin.ofNat 4 (i / 2))

/-- The point (`px`, `py`) of a tile map's plane in numbers: its colour index and its map attribute byte
(R196 to R202). -/
def planePoint (s : State) (map : Bool) (px py : Nat) : Nat × Byte :=
  let off := (if map then 0x1C00 else 0x1800) + py / 8 * 32 + px / 8
  let tile := s.vram.read off
  let attr := if s.cfg.colorMode then s.vram.read (0x2000 + off) else 0
  let row := if attr[6] then 7 - py % 8 else py % 8
  let col := if attr[5] then 7 - px % 8 else px % 8
  let base : Int := if s.lcdc[4] then tile.toNat * 16 else 0x1000 + tile.toInt * 16
  let lo := (attr[3]).toNat * 0x2000 + base.toNat + 2 * row
  (planeNumber (s.vram.read lo) (s.vram.read (lo + 1)) (7 - col), attr)

/-- The background or window colour of a plane point (R204, R205, R236). -/
def planeColor (s : State) (pt : Nat × Byte) : Argb :=
  if s.cfg.colorMode then argbOf s.cfg ((s.bgPal.get (Fin.ofNat 8 pt.2.toNat)).get (Fin.ofNat 4 pt.1))
  else shadeOf s.cfg s.bgp pt.1

/-- The window is drawn on line `ly` (R192, R206, R207). -/
abbrev WindowShows (s : State) (ly : Byte) : Prop :=
  s.lcdc[5] = true ∧ s.lcdc[0] = true ∧ s.wy.toNat ≤ ly.toNat ∧ 7 ≤ s.wx.toNat ∧ s.wx.toNat ≤ 166

/-- The colour of sprite `n`'s pixel at a column of line `ly`, before the background may hide it: none where the
sprite has no pixel or a transparent one (R212, R217 to R224, R227, R228). -/
def opaqueSpritePixel (s : State) (ly : Byte) (n : Fin 40) (col : Nat) : Option Argb :=
  let y := (s.oam.read (4 * n.val)).toNat
  let x := (s.oam.read (4 * n.val + 1)).toNat
  let tile := (s.oam.read (4 * n.val + 2)).toNat
  let attr := s.oam.read (4 * n.val + 3)
  let tall := s.lcdc[2]
  let h := if tall then 16 else 8
  if y ≤ ly.toNat + 16 ∧ ly.toNat + 16 < y + h ∧ x ≤ col + 8 ∧ col < x then
    let row := if attr[6] then h - 1 - (ly.toNat + 16 - y) else ly.toNat + 16 - y
    let bank := if s.cfg.colorMode then (attr[3]).toNat else 0
    let lo := bank * 0x2000 + (if tall then tile / 2 * 2 else tile) * 16 + 2 * row
    let c := col + 8 - x
    let ci := planeNumber (s.vram.read lo) (s.vram.read (lo + 1)) (if attr[5] then c else 7 - c)
    if ci = 0 then none
    else if s.cfg.colorMode then
      some (argbOf s.cfg ((s.objPal.get (Fin.ofNat 8 attr.toNat)).get (Fin.ofNat 4 ci)))
    else some (shadeOf s.cfg (if attr[4] then s.obp1 else s.obp0) ci)
  else none

/-- The background hides a sprite's pixel: in monochrome mode BEHIND over a non-zero index (R225); in colour mode
by the reading the parameter selects (R226). -/
abbrev HiddenAt (s : State) (n : Fin 40) (idx : BitVec 2) (prio : Bool) : Prop :=
  if s.cfg.colorMode then
    if s.cfg.cgbObjBehindNeedsBgNonzero then
      (prio = true ∨ (s.oam.read (4 * n.val + 3))[7] = true) ∧ idx ≠ 0
    else (prio = true ∧ idx ≠ 0) ∨ (s.oam.read (4 * n.val + 3))[7] = true
  else (s.oam.read (4 * n.val + 3))[7] = true ∧ idx ≠ 0

/-- Sprite `m` has priority over sprite `n`: by X, then by record number, in monochrome mode (R214); by record
number in colour mode (R215). -/
abbrev State.Outranks (s : State) (m n : Fin 40) : Prop :=
  if s.cfg.colorMode then m < n
  else (s.recX m).toNat < (s.recX n).toNat ∨ (s.recX m).toNat = (s.recX n).toNat ∧ m < n

end Sys2Proof.Machine
end

