-- ==== Sys2Proof/Certificates/Slice0/Obligations.lean ====
section
/-! DEFINITION. The statements about the model, each from the rules its docstring names. -/

open Sys2Proof Sys2Proof.Machine

/-- For every parameter set whose windows are disjoint and fit the 16-bit space (R13; that they fit is DEDUCED, log
entry 12), every well-formed instruction that has a port operation is decoded from it, with every operand at
every value. That the five colour-mode register addresses decode to their own rows with COLOR_MODE false too,
where R115 has them act as unmapped, is DEDUCED (log entry 6: their meaning there is that of an unmapped
access). [30_encoding.md rule R111, 30_encoding.md rule R114, 30_encoding.md rule R116, 30_encoding.md sections
2 and 3, 00_scope.md rule R13 (premise), log entry 6, log entry 12] -/
def Obligations.DecodeOfEncodeIsInstruction : Prop :=
  ∀ c : Config, c.Valid → ∀ (i : Instr) (op : PortOp),
    i.wellFormed c = true → encode c i = some op → decode c op = i

/-- For every parameter set, every 17-bit bus word decodes to a well-formed instruction (decoding is total), and
encoding it gives the word back, with the data byte of a write (a read carries none, written 0); the same for
advance and renderLine. The five colour-mode register addresses decode to their own rows in both modes (DEDUCED,
log entry 6). [30_encoding.md rule R111, 30_encoding.md section 2, 30_encoding.md rule R118, log entry 6] -/
def Obligations.EncodeOfDecodeIsOperation : Prop :=
  ∀ c : Config,
    (∀ (w : BitVec 17) (d : Byte), (decode c (.bus w d)).wellFormed c = true ∧
      encode c (decode c (.bus w d)) = some (.bus w (if w[16] then d else 0))) ∧
    (∀ d : Nat, encode c (decode c (.advance d)) = some (.advance d)) ∧
    ∀ ly : Byte, encode c (decode c (.renderLine ly)) = some (.renderLine ly)

/-- For every valid parameter set, address REG_BASE + k selects LCDC, STAT, SCY, SCX, LY, LYC, (offset 6, no
register), BGP, OBP0, OBP1, WY, WX for k = 0 to 0xB. [R114] -/
def Obligations.RegisterWindowDecode : Prop :=
  ∀ c : Config, c.Valid → ∀ k : Fin 12,
    decodeTarget c (c.regBase + BitVec.ofNat 16 k.val) =
      .reg ((#v[.lcdc, .stat, .scy, .scx, .ly, .lyc, .base6, .bgp, .obp0, .obp1, .wy, .wx] : Vector Reg 12).get k)

/-- For every parameter set, an address with bits 15..13 = 100b selects the VRAM byte at its low 13 bits, and those
addresses are exactly 0x8000 to 0x9FFF. [R116] -/
def Obligations.VramWindowDecode : Prop :=
  ∀ (c : Config) (a : Addr),
    (a.extractLsb' 13 3 = 4 ↔ 0x8000 ≤ a.toNat ∧ a.toNat ≤ 0x9FFF) ∧
    (0x8000 ≤ a.toNat → a.toNat ≤ 0x9FFF → decodeTarget c a = .vram (BitVec.ofNat 13 (a.toNat - 0x8000)))

/-- For every valid parameter set: an address of the OAM window selects its byte; each colour-mode register's
address selects it (also in monochrome mode, where its meaning is that of an unmapped address, log entry 6); an
address in no window is unmapped. [30_encoding.md rule R117, 30_encoding.md rule R115, 30_encoding.md rule R118,
30_encoding.md rule R120] -/
def Obligations.OamColourAndUnmappedDecode : Prop :=
  ∀ c : Config, c.Valid →
    (∀ a : Addr, c.oamBase.toNat ≤ a.toNat → a.toNat < c.oamBase.toNat + 160 →
      decodeTarget c a = .oam (BitVec.ofNat 8 (a.toNat - c.oamBase.toNat))) ∧
    (∀ r : CgbReg, decodeTarget c (c.cgbAddr r) = .cgb r) ∧
    ∀ a : Addr, c.isUnmapped a = true → decodeTarget c a = .unmapped a

/-- decodeSeq gives T23 in mode 2, T30 in mode 3, T02 or T01 in mode 0 as LY + 1 is below 144 or not, T11 or T12 in
mode 1 as LY + 1 is at most 153 or not. [30_encoding.md section 5, 30_encoding.md rule R122] -/
def Obligations.SequencerSelection : Prop :=
  ∀ ly : Byte,
    decodeSeq .oamSearch ly = .t23 ∧ decodeSeq .pixelTransfer ly = .t30 ∧
    (ly.toNat + 1 < 144 → decodeSeq .hblank ly = .t02) ∧ (144 ≤ ly.toNat + 1 → decodeSeq .hblank ly = .t01) ∧
    (ly.toNat + 1 ≤ 153 → decodeSeq .vblank ly = .t11) ∧ (153 < ly.toNat + 1 → decodeSeq .vblank ly = .t12)

/-- Nine words from the encoding column of programs P1 to P4, and the write of 0xFF46 of vector B5 (its word by
R111), decode under the default parameters to the operations they stand for. The words 0x1FF6A and 0x0FF68 are
from the colour-mode program P3; that they decode to WRITE_OCPS and READ_BCPS under the default COLOR_MODE false
as well is DEDUCED (log entry 6). [95_test_vectors.md section L3, 95_test_vectors.md section L2.4 (vector B5),
30_encoding.md rule R111, 43_bus_access.md rule R288, log entry 6] -/
def Obligations.TransactionWordsDecode : Prop :=
  decode Config.default (.bus 0x1FF47 0xFC) = .writeBgp 0xFC ∧
  decode Config.default (.bus 0x1FF40 0x91) = .writeLcdc 0x91 ∧
  decode Config.default (.bus 0x0FF41 0) = .readStat ∧
  decode Config.default (.bus 0x1FF45 0x02) = .writeLyc 0x02 ∧
  decode Config.default (.bus 0x1FF44 0x99) = .writeLy 0x99 ∧
  decode Config.default (.bus 0x1800F 0xFF) = .writeVram 0x000F 0xFF ∧
  decode Config.default (.bus 0x1FE01 0x10) = .writeOam 1 0x10 ∧
  decode Config.default (.bus 0x1FF6A 0x8E) = .writeOcps 0x8E ∧
  decode Config.default (.bus 0x0FF68 0) = .readBcps ∧
  decode Config.default (.bus 0x1FF46 0xC0) = .writeBase6 0xC0

/-- With an operation waiting, step is exec of its decoding on the state without it; with none waiting, the state
stays as it is (the model's choice, log entry 3); a word placed by withFetchWord, its bits below nbits taken as
a 17-bit transaction word with data byte 0 (the model's choice, log entry 13), is the one the next step
performs. [20_memory.md rule R98, 30_encoding.md rule R123, log entry 3, log entry 13] -/
def Obligations.StepPerformsNextOperation : Prop :=
  (∀ (s : State) (op : PortOp) (rest : List PortOp), s.pending = op :: rest →
    step s = exec (decode s.cfg op) { s with pending := rest }) ∧
  (∀ s : State, s.pending = [] → step s = .next s) ∧
  ∀ (s : State) (nbits w : Nat),
    step (s.withFetchWord nbits w) = exec (decode s.cfg (.bus (BitVec.ofNat 17 (w % 2 ^ nbits)) 0)) s

/-- For every bus word: a read (bit 16 clear) completes, adds one byte to the bytes returned and changes nothing
else; a write completes, returns no byte and emits no event, or one LYC request when it is a write of LCDC, LY
or LYC. [R270, R272] -/
def Obligations.BusReadsReturnOneByte : Prop :=
  ∀ (s : State) (w : BitVec 17) (d : Byte),
    (w[16] = false →
      ∃ b : Byte, exec (decode s.cfg (.bus w d)) s = .next { s with reads := s.reads ++ [b] }) ∧
    (w[16] = true →
      ∃ (t : State) (new : List Event), exec (decode s.cfg (.bus w d)) s = .next t ∧
        t.reads = s.reads ∧ t.events = s.events ++ new ∧
        (new = [] ∨ new = [.irqStat .lyc] ∧
          (decode s.cfg (.bus w d) = .writeLcdc d ∨ decode s.cfg (.bus w d) = .writeLy d ∨
            decode s.cfg (.bus w d) = .writeLyc d)))

/-- Every bus transaction completes and leaves the Frame Store, the transient buffers, the parameters, the queue and
the hook inputs alone; mode, acc and the sprite list change only with a write of LCDC that changes bit 7, and LY
and windowLine only with such a write or a write of LY. [10_state.md rule R50, 10_state.md rule R53,
20_memory.md rule R95, 20_memory.md rule R102, 43_bus_access.md rule R276, 43_bus_access.md rule R284] -/
def Obligations.BusOperationsLeavePictureAndSequencer : Prop :=
  ∀ (s : State) (w : BitVec 17) (d : Byte),
    ∃ t : State, exec (decode s.cfg (.bus w d)) s = .next t ∧
      t.frame = s.frame ∧ t.idxBuf = s.idxBuf ∧ t.prioBuf = s.prioBuf ∧ t.cfg = s.cfg ∧
      t.pending = s.pending ∧ t.hookWrites = s.hookWrites ∧
      ((decode s.cfg (.bus w d) = .writeLcdc d ∧ d[7] ≠ s.lcdc[7]) ∨
        (t.mode = s.mode ∧ t.acc = s.acc ∧ t.spriteList = s.spriteList)) ∧
      ((decode s.cfg (.bus w d) = .writeLcdc d ∧ d[7] ≠ s.lcdc[7]) ∨ decode s.cfg (.bus w d) = .writeLy d ∨
        (t.ly = s.ly ∧ t.windowLine = s.windowLine))

/-- In every state the read completes, returns the register's byte as stored (WX without the offset by 7) and
changes nothing else. [R275, R279, R281, R283, R285, R289, R291, R293, R295, R297] -/
def Obligations.RegisterReads : Prop :=
  ∀ s : State,
    exec .readLcdc s = .next { s with reads := s.reads ++ [s.lcdc] } ∧
    exec .readScy s = .next { s with reads := s.reads ++ [s.scy] } ∧
    exec .readScx s = .next { s with reads := s.reads ++ [s.scx] } ∧
    exec .readLy s = .next { s with reads := s.reads ++ [s.ly] } ∧
    exec .readLyc s = .next { s with reads := s.reads ++ [s.lyc] } ∧
    exec .readBgp s = .next { s with reads := s.reads ++ [s.bgp] } ∧
    exec .readObp0 s = .next { s with reads := s.reads ++ [s.obp0] } ∧
    exec .readObp1 s = .next { s with reads := s.reads ++ [s.obp1] } ∧
    exec .readWy s = .next { s with reads := s.reads ++ [s.wy] } ∧
    exec .readWx s = .next { s with reads := s.reads ++ [s.wx] }

/-- In every state the read completes, changes nothing else, and the byte returned has the stored bits 7..3, the
coincidence flag in bit 2 and the number of the mode in bits 1..0. [R277] -/
def Obligations.StatRead : Prop :=
  ∀ s : State, ∃ b : Byte, exec .readStat s = .next { s with reads := s.reads ++ [b] } ∧
    b.extractLsb' 3 5 = s.statHi ∧ b[2] = s.coincidence ∧ b.toNat % 4 = modeNumber s.mode

/-- In every state and at every address: READ_UNMAPPED and READ_BASE6 return 0xFF and change nothing else;
WRITE_UNMAPPED and WRITE_BASE6 change nothing. [R273, R274, R287, R288] -/
def Obligations.UnmappedAccesses : Prop :=
  ∀ (s : State) (a : Addr) (d : Byte),
    exec (.readUnmapped a) s = .next { s with reads := s.reads ++ [0xFF] } ∧
    exec (.writeUnmapped a d) s = .next s ∧
    exec .readBase6 s = .next { s with reads := s.reads ++ [0xFF] } ∧
    exec (.writeBase6 d) s = .next s

/-- With COLOR_MODE false, reading VBK, BCPS, BCPD, OCPS or OCPD returns 0xFF and changes nothing else, and writing
one changes nothing. [42_palette.md rule R264, 30_encoding.md rule R115, log entry 6] -/
def Obligations.MonochromeColourRegisters : Prop :=
  ∀ (s : State) (d : Byte), s.cfg.colorMode = false →
    (exec .readVbk s = .next { s with reads := s.reads ++ [0xFF] } ∧ exec (.writeVbk d) s = .next s) ∧
    (exec .readBcps s = .next { s with reads := s.reads ++ [0xFF] } ∧ exec (.writeBcps d) s = .next s) ∧
    (exec .readBcpd s = .next { s with reads := s.reads ++ [0xFF] } ∧ exec (.writeBcpd d) s = .next s) ∧
    (exec .readOcps s = .next { s with reads := s.reads ++ [0xFF] } ∧ exec (.writeOcps d) s = .next s) ∧
    (exec .readOcpd s = .next { s with reads := s.reads ++ [0xFF] } ∧ exec (.writeOcpd d) s = .next s)

/-- With COLOR_MODE true: VBK reads 0xFE + bank; an index register reads its flag in bit 7, 0 in bit 6 and the
index; a data register reads the low byte of the addressed entry at an even index and bits 14..8 at an odd one.
Nothing else changes. (Decisions D32 and D34 of the spec.) [43_bus_access.md rule R299, 42_palette.md rule R258,
42_palette.md rule R259, 42_palette.md rule R261, 42_palette.md rule R263] -/
def Obligations.ColourRegisterReads : Prop :=
  ∀ s : State, s.cfg.colorMode = true →
    exec .readVbk s = .next { s with reads := s.reads ++ [BitVec.ofNat 8 (0xFE + s.vbk.toNat)] } ∧
    exec .readBcps s = .next { s with reads := s.reads ++
      [BitVec.ofNat 8 (128 * s.bcps.autoInc.toNat + s.bcps.index.toNat)] } ∧
    exec .readOcps s = .next { s with reads := s.reads ++
      [BitVec.ofNat 8 (128 * s.ocps.autoInc.toNat + s.ocps.index.toNat)] } ∧
    exec .readBcpd s = .next { s with reads := s.reads ++
      [BitVec.ofNat 8 (if s.bcps.index.toNat % 2 = 0 then (entryOf s.bgPal s.bcps.index.toNat).toNat % 256
        else (entryOf s.bgPal s.bcps.index.toNat).toNat / 256)] } ∧
    exec .readOcpd s = .next { s with reads := s.reads ++
      [BitVec.ofNat 8 (if s.ocps.index.toNat % 2 = 0 then (entryOf s.objPal s.ocps.index.toNat).toNat % 256
        else (entryOf s.objPal s.ocps.index.toNat).toNat / 256)] }

/-- With COLOR_MODE true the write completes and changes only the named register: VBK becomes data[0], the index
data[5:0], the auto-increment flag data[7]; data[6] is dropped. (Decisions D32 and D34 of the spec.)
[43_bus_access.md rule R300, 42_palette.md rule R260, 42_palette.md rule R262] -/
def Obligations.ColourRegisterWrites : Prop :=
  ∀ (s : State) (d : Byte), s.cfg.colorMode = true →
    exec (.writeVbk d) s = .next { s with vbk := BitVec.ofNat 1 d.toNat } ∧
    exec (.writeBcps d) s = .next { s with bcps := ⟨BitVec.ofNat 6 d.toNat, d[7]⟩ } ∧
    exec (.writeOcps d) s = .next { s with ocps := ⟨BitVec.ofNat 6 d.toNat, d[7]⟩ }

/-- With COLOR_MODE true and an even index, a write of BCPD (OCPD) completes, replaces bits 7..0 of the addressed
entry of BGPAL (OBJPAL), keeps bits 14..8 and every other entry; the index becomes (i + 1) mod 64 when the flag
is set and stays otherwise, the flag is kept, and nothing else changes. [R253, R255] -/
def Obligations.PaletteLowByteWrite : Prop :=
  ∀ (s : State) (d : Byte), s.cfg.colorMode = true →
    (s.bcps.index.toNat % 2 = 0 →
      ∃ t : State, exec (.writeBcpd d) s = .next t ∧ t = { s with bgPal := t.bgPal, bcps := t.bcps } ∧
        (∀ j : Nat, j < 64 → entryOf t.bgPal j =
          if j / 2 = s.bcps.index.toNat / 2 then
            (let v := (entryOf s.bgPal j).toNat; BitVec.ofNat 15 (v / 256 * 256 + d.toNat))
          else entryOf s.bgPal j) ∧
        t.bcps.autoInc = s.bcps.autoInc ∧
        t.bcps.index.toNat = if s.bcps.autoInc then (s.bcps.index.toNat + 1) % 64 else s.bcps.index.toNat) ∧
    (s.ocps.index.toNat % 2 = 0 →
      ∃ t : State, exec (.writeOcpd d) s = .next t ∧ t = { s with objPal := t.objPal, ocps := t.ocps } ∧
        (∀ j : Nat, j < 64 → entryOf t.objPal j =
          if j / 2 = s.ocps.index.toNat / 2 then
            (let v := (entryOf s.objPal j).toNat; BitVec.ofNat 15 (v / 256 * 256 + d.toNat))
          else entryOf s.objPal j) ∧
        t.ocps.autoInc = s.ocps.autoInc ∧
        t.ocps.index.toNat = if s.ocps.autoInc then (s.ocps.index.toNat + 1) % 64 else s.ocps.index.toNat)

/-- As for the low byte, at an odd index: bits 14..8 become data[6:0] (data[7] is not stored, decision D32 of the
spec) and bits 7..0 are kept; index 63 with the flag set wraps to 0. [42_palette.md rule R251, 42_palette.md
rule R254, 42_palette.md rule R255] -/
def Obligations.PaletteHighByteWrite : Prop :=
  ∀ (s : State) (d : Byte), s.cfg.colorMode = true →
    (s.bcps.index.toNat % 2 = 1 →
      ∃ t : State, exec (.writeBcpd d) s = .next t ∧ t = { s with bgPal := t.bgPal, bcps := t.bcps } ∧
        (∀ j : Nat, j < 64 → entryOf t.bgPal j =
          if j / 2 = s.bcps.index.toNat / 2 then
            (let v := (entryOf s.bgPal j).toNat; BitVec.ofNat 15 (d.toNat % 128 * 256 + v % 256))
          else entryOf s.bgPal j) ∧
        t.bcps.autoInc = s.bcps.autoInc ∧
        t.bcps.index.toNat = if s.bcps.autoInc then (s.bcps.index.toNat + 1) % 64 else s.bcps.index.toNat) ∧
    (s.ocps.index.toNat % 2 = 1 →
      ∃ t : State, exec (.writeOcpd d) s = .next t ∧ t = { s with objPal := t.objPal, ocps := t.ocps } ∧
        (∀ j : Nat, j < 64 → entryOf t.objPal j =
          if j / 2 = s.ocps.index.toNat / 2 then
            (let v := (entryOf s.objPal j).toNat; BitVec.ofNat 15 (d.toNat % 128 * 256 + v % 256))
          else entryOf s.objPal j) ∧
        t.ocps.autoInc = s.ocps.autoInc ∧
        t.ocps.index.toNat = if s.ocps.autoInc then (s.ocps.index.toNat + 1) % 64 else s.ocps.index.toNat)

/-- From BCPS index 2k with the flag set: writing lo then hi leaves entry k equal to hi[6:0] and lo and the index at
2k + 2 mod 64; writing BCPS 2k and reading BCPD returns lo, writing BCPS 2k + 1 and reading returns hi & 0x7F.
[42_palette.md rule R265, 42_palette.md rule R258] -/
def Obligations.PaletteRoundTrip : Prop :=
  ∀ (s : State) (lo hi : Byte) (k : Fin 32), s.cfg.colorMode = true →
    s.bcps = ⟨BitVec.ofNat 6 (2 * k.val), true⟩ →
    ∃ t u v w x y : State,
      exec (.writeBcpd lo) s = .next t ∧ exec (.writeBcpd hi) t = .next u ∧
      (entryOf u.bgPal (2 * k.val)).toNat = hi.toNat % 128 * 256 + lo.toNat ∧
      u.bcps.index.toNat = (2 * k.val + 2) % 64 ∧ u.bcps.autoInc = true ∧
      exec (.writeBcps (BitVec.ofNat 8 (2 * k.val))) u = .next v ∧
      exec .readBcpd v = .next w ∧ w.reads = v.reads ++ [lo] ∧
      exec (.writeBcps (BitVec.ofNat 8 (2 * k.val + 1))) w = .next x ∧
      exec .readBcpd x = .next y ∧ y.reads = x.reads ++ [hi &&& 0x7F]

/-- In every mode READ_VRAM returns the byte at flat index bank * 0x2000 + offset and changes nothing else;
WRITE_VRAM completes and changes VRAM only: that byte reads as the data and every other byte as before (over
memories in canonical form). [43_bus_access.md rule R301, 43_bus_access.md rule R302, 20_memory.md rule R82,
10_state.md rule R41] -/
def Obligations.VramAccess : Prop :=
  ∀ (s : State) (off : BitVec 13) (d : Byte),
    exec (.readVram off) s = .next { s with reads := s.reads ++
      [s.vram.read ((if s.cfg.colorMode then s.vbk.toNat else 0) * 0x2000 + off.toNat)] } ∧
    (s.MemoryOk → ∃ t : State, exec (.writeVram off d) s = .next t ∧ t = { s with vram := t.vram } ∧
      ∀ a : Nat, t.vram.read a =
        if a = (if s.cfg.colorMode then s.vbk.toNat else 0) * 0x2000 + off.toNat then d else s.vram.read a)

/-- For an index 0..159, in every mode: READ_OAM returns OAM[index] and changes nothing else; WRITE_OAM completes
and changes OAM only: that byte reads as the data and every other byte as before (over memories in canonical
form). [43_bus_access.md rule R303, 43_bus_access.md rule R304, 20_memory.md rule R83, 20_memory.md rule R102] -/
def Obligations.OamAccess : Prop :=
  ∀ (s : State) (i : BitVec 8) (d : Byte), i.toNat < 160 →
    exec (.readOam i) s = .next { s with reads := s.reads ++ [s.oam.read i.toNat] } ∧
    (s.MemoryOk → ∃ t : State, exec (.writeOam i d) s = .next t ∧ t = { s with oam := t.oam } ∧
      ∀ a : Nat, t.oam.read a = if a = i.toNat then d else s.oam.read a)

/-- In every state the write completes, the register holds the data, and everything else is unchanged. [R280, R282,
R290, R292, R294, R296, R298] -/
def Obligations.PlainRegisterWrites : Prop :=
  ∀ (s : State) (d : Byte),
    exec (.writeScy d) s = .next { s with scy := d } ∧ exec (.writeScx d) s = .next { s with scx := d } ∧
    exec (.writeBgp d) s = .next { s with bgp := d } ∧ exec (.writeObp0 d) s = .next { s with obp0 := d } ∧
    exec (.writeObp1 d) s = .next { s with obp1 := d } ∧ exec (.writeWy d) s = .next { s with wy := d } ∧
    exec (.writeWx d) s = .next { s with wx := d }

/-- In every state the write completes; STAT as read has bits 7..3 of the data and its former bits 2..0; nothing
else changes, no event is emitted. [R278] -/
def Obligations.StatWrite : Prop :=
  ∀ (s : State) (d : Byte), ∃ t : State, exec (.writeStat d) s = .next t ∧
    t = { s with statHi := t.statHi } ∧ t.stat.toNat = d.toNat / 8 * 8 + s.stat.toNat % 8

/-- The write completes and stores the data; with the parameter false nothing else changes; with it true the flag
becomes LY == LYC, and a match with STAT.6 set requests an LYC interrupt. (Decision D10 of the spec: a
parameter.) [43_bus_access.md rule R286] -/
def Obligations.LycWrite : Prop :=
  ∀ (s : State) (d : Byte),
    (s.cfg.lycWriteRecheck = false → exec (.writeLyc d) s = .next { s with lyc := d }) ∧
    (s.cfg.lycWriteRecheck = true → exec (.writeLyc d) s = .next { s with
      lyc := d
      coincidence := decide (s.ly = d)
      events := s.events ++ eventIf (decide (s.ly = d) && s.stat[6]) (.irqStat .lyc) })

/-- The write completes: LY and windowLine are 0, the flag is 0 == LYC, a match with STAT.6 set requests an LYC
interrupt; mode, acc, the sprite list and everything else are kept. (Decisions D9 and D40 of the spec.)
[43_bus_access.md rule R284, 10_state.md rule R33] -/
def Obligations.LyWrite : Prop :=
  ∀ (s : State) (d : Byte), exec (.writeLy d) s = .next { s with
    ly := 0
    windowLine := 0
    coincidence := decide (s.lyc = 0)
    events := s.events ++ eventIf (decide (s.lyc = 0) && s.stat[6]) (.irqStat .lyc) }

/-- With bit 7 unchanged only LCDC changes. With it changed: LY, windowLine and acc are 0, the mode is 2, the flag
is 0 == LYC (requesting LYC when enabled, never OAM), the sprite list is that of a search with the new LCDC at
LY 0, and nothing else changes. (Decision D11 of the spec.) [43_bus_access.md rule R276, 40_sequencer.md rule
R162] -/
def Obligations.LcdcWrite : Prop :=
  ∀ (s : State) (d : Byte),
    (d[7] = s.lcdc[7] → exec (.writeLcdc d) s = .next { s with lcdc := d }) ∧
    (d[7] ≠ s.lcdc[7] → ∃ t : State, exec (.writeLcdc d) s = .next t ∧ t.ListIsSearched ∧
      t = { s with
        lcdc := d
        ly := 0
        windowLine := 0
        acc := 0
        mode := .oamSearch
        coincidence := decide (s.lyc = 0)
        events := s.events ++ eventIf (decide (s.lyc = 0) && s.stat[6]) (.irqStat .lyc)
        spriteList := t.spriteList })

/-- checkLYC sets the flag to LY == LYC and emits one IRQ_STAT(LYC) when it is set with STAT.6; after each
assignment to LY (the transition selected in mode 0 or 1, an LY write of any data byte, an LCDC write that
changes bit 7) the flag is LY == LYC and exactly one IRQ_STAT(LYC) was emitted when it matches with STAT.6 set,
none otherwise; and no instruction, advance included, ends with LY changed and the flag other than LY == LYC.
(That the check runs after an LY write that leaves LY as it was, and after an LCDC.7 edge, is by decisions D9,
D11 and D40 of the spec.) [40_sequencer.md rule R153, 40_sequencer.md rule R154, 40_sequencer.md rule R162,
43_bus_access.md rule R276, 43_bus_access.md rule R284] -/
def Obligations.CoincidenceOnEveryLineTransition : Prop :=
  (∀ s : State, s.checkLyc = { s with
    coincidence := decide (s.ly = s.lyc)
    events := s.events ++ eventIf (decide (s.ly = s.lyc) && s.stat[6]) (.irqStat .lyc) }) ∧
  (∀ (s : State) (i : Instr), (s.mode = .hblank ∨ s.mode = .vblank) ∧ i = decodeSeq s.mode s.ly ∨
      (∃ d : Byte, i = .writeLy d) ∨ (∃ d : Byte, i = .writeLcdc d ∧ d[7] ≠ s.lcdc[7]) →
    ∃ (t : State) (new : List Event), exec i s = .next t ∧ t.events = s.events ++ new ∧
      t.coincidence = decide (t.ly = t.lyc) ∧
      new.count (.irqStat .lyc) = if t.ly = t.lyc ∧ s.stat[6] = true then 1 else 0) ∧
  ∀ (i : Instr) (s t : State), exec i s = .next t → t.ly ≠ s.ly → t.coincidence = decide (t.ly = t.lyc)

/-- In mode 2 the transition completes and changes only the mode, to 3; the sprite list is kept and no event is
emitted. [R147] -/
def Obligations.TransitionT23 : Prop :=
  ∀ s : State, s.mode = .oamSearch → exec .t23 s = .next { s with mode := .pixelTransfer }

/-- In mode 3 the transition completes: the mode is 0; row, buffers and windowLine are those of renderLine(LY), for
LY at most 143 those a direct call renderLine(LY) on the same state leaves (decision D39 of the spec);
LINE_READY(LY), then IRQ_STAT(HBLANK) when STAT.3 is set, then HDMA_HBLANK are emitted (the order is decision
D14 of the spec); the hook's writes reach VRAM through the bus window (log entry 5); nothing else changes.
[40_sequencer.md rule R148, 60_exceptions.md rule R349, 20_memory.md rule R101, 41_compositor.md rule R191, log
entry 5] -/
def Obligations.TransitionT30 : Prop :=
  ∀ s : State, s.mode = .pixelTransfer → ∃ t : State, exec .t30 s = .next t ∧
    t = { s.renderLine s.ly with
      mode := .hblank
      vram := (s.hookWrites.headD []).foldl
        (fun m w => m.write ((if s.cfg.colorMode then s.vbk.toNat else 0) * 0x2000 + w.1.toNat) w.2) s.vram
      hookWrites := s.hookWrites.tail
      events := s.events ++ [.lineReady s.ly] ++ eventIf (s.stat[3]) (.irqStat .hblank) ++ [.hdmaHblank] } ∧
    (s.ly.toNat ≤ 143 → ∃ u : State, exec (.renderLine s.ly) s = .next u ∧
      t.frame = u.frame ∧ t.idxBuf = u.idxBuf ∧ t.prioBuf = u.prioBuf ∧ t.windowLine = u.windowLine)

/-- The transition completes: LY is one more, the flag is LY == LYC with its request, the mode is 2, the sprite list
is that of a search at the new LY, IRQ_STAT(OAM) follows when STAT.5 is set; nothing else changes. (Order and
search point: decisions D14 and D12 of the spec.) [40_sequencer.md rule R149, 40_sequencer.md rule R155] -/
def Obligations.TransitionT02 : Prop :=
  ∀ s : State, s.mode = .hblank → s.ly.toNat + 1 < 144 → ∃ t : State, exec .t02 s = .next t ∧
    t.ListIsSearched ∧
    t = { s with
      ly := s.ly + 1
      coincidence := decide (s.ly + 1 = s.lyc)
      mode := .oamSearch
      spriteList := t.spriteList
      events := s.events ++ eventIf (decide (s.ly + 1 = s.lyc) && s.stat[6]) (.irqStat .lyc) ++
        eventIf (s.stat[5]) (.irqStat .oam) }

/-- The transition completes: LY is one more, the flag is LY == LYC with its request, the mode is 1,
IRQ_STAT(VBLANK) when STAT.4 is set, then IRQ_VBLANK and FRAME_READY always; nothing else changes. (Order:
decision D14 of the spec.) [40_sequencer.md rule R150, 60_exceptions.md rule R338] -/
def Obligations.TransitionT01 : Prop :=
  ∀ s : State, s.mode = .hblank → 144 ≤ s.ly.toNat + 1 → exec .t01 s = .next { s with
    ly := s.ly + 1
    coincidence := decide (s.ly + 1 = s.lyc)
    mode := .vblank
    events := s.events ++ eventIf (decide (s.ly + 1 = s.lyc) && s.stat[6]) (.irqStat .lyc) ++
      eventIf (s.stat[4]) (.irqStat .vblank) ++ [.irqVblank, .frameReady] }

/-- The transition completes: LY is one more and the flag is LY == LYC with its request; nothing else changes, no
line is rendered. [R151] -/
def Obligations.TransitionT11 : Prop :=
  ∀ s : State, s.mode = .vblank → s.ly.toNat + 1 ≤ 153 → exec .t11 s = .next { s with
    ly := s.ly + 1
    coincidence := decide (s.ly + 1 = s.lyc)
    events := s.events ++ eventIf (decide (s.ly + 1 = s.lyc) && s.stat[6]) (.irqStat .lyc) }

/-- The transition completes: LY and windowLine are 0, the flag is 0 == LYC with its request, the mode is 2, the
sprite list is that of a search at LY 0, IRQ_STAT(OAM) follows when STAT.5 is set; nothing else changes.
(Decisions D14 and D40 of the spec.) [40_sequencer.md rule R152, 40_sequencer.md rule R155] -/
def Obligations.TransitionT12 : Prop :=
  ∀ s : State, s.mode = .vblank → 153 < s.ly.toNat + 1 → ∃ t : State, exec .t12 s = .next t ∧
    t.ListIsSearched ∧
    t = { s with
      ly := 0
      windowLine := 0
      coincidence := decide (s.lyc = 0)
      mode := .oamSearch
      spriteList := t.spriteList
      events := s.events ++ eventIf (decide (s.lyc = 0) && s.stat[6]) (.irqStat .lyc) ++
        eventIf (s.stat[5]) (.irqStat .oam) }

/-- advance(d) completes in every state: below the mode's duration the accumulator grows by d and nothing else
changes; at or above it, the duration is subtracted, the transition the mode and LY select is performed, and the
loop goes on as advance(0) from there; the remainder is never dropped. [R142] -/
def Obligations.AdvanceLoop : Prop :=
  ∀ (s : State) (d : Nat),
    (∃ t : State, exec (.advance d) s = .next t) ∧
    (s.acc + d < duration s.mode → exec (.advance d) s = .next { s with acc := s.acc + d }) ∧
    (duration s.mode ≤ s.acc + d → ∃ t : State,
      exec (decodeSeq s.mode s.ly) { s with acc := s.acc + d - duration s.mode } = .next t ∧
      exec (.advance d) s = exec (.advance 0) t)

/-- advance completes and leaves LCDC, STAT bits 7..3, LYC, SCY, SCX, WY, WX, BGP, OBP0, OBP1, VBK, BCPS, OCPS, the
palettes, OAM, the parameters, the bytes returned and the queue unchanged; every VRAM byte reads as before but
at the addresses bank * 0x2000 + offset of a waiting hook write, the bank that of the bus window, and with no
hook write waiting VRAM is the same memory; the events only grow. That a hook call writes VRAM only, through the
bus window, is the model's choice (log entry 5). [40_sequencer.md rule R142, 10_state.md rule R30,
60_exceptions.md rule R349, 20_memory.md rule R82, log entry 5] -/
def Obligations.AdvanceFrame : Prop :=
  ∀ (s : State) (d : Nat), ∃ (t : State) (new : List Event), exec (.advance d) s = .next t ∧
    t.lcdc = s.lcdc ∧ t.statHi = s.statHi ∧ t.lyc = s.lyc ∧ t.scy = s.scy ∧ t.scx = s.scx ∧ t.wy = s.wy ∧
    t.wx = s.wx ∧ t.bgp = s.bgp ∧ t.obp0 = s.obp0 ∧ t.obp1 = s.obp1 ∧ t.vbk = s.vbk ∧ t.bcps = s.bcps ∧
    t.ocps = s.ocps ∧ t.bgPal = s.bgPal ∧ t.objPal = s.objPal ∧ t.oam = s.oam ∧ t.cfg = s.cfg ∧
    t.reads = s.reads ∧ t.pending = s.pending ∧ (s.hookWrites = [] → t.vram = s.vram) ∧
    (∀ a : Nat, (∀ ws ∈ s.hookWrites, ∀ w ∈ ws,
        a ≠ (if s.cfg.colorMode then s.vbk.toNat else 0) * 0x2000 + w.1.toNat) →
      t.vram.read a = s.vram.read a) ∧
    t.events = s.events ++ new

/-- From every state, advance(a) completes and advance(b) from there gives exactly what advance(a + b) gives from
the start: the same state and, the events being part of it, the same event list. [40_sequencer.md rule R145] -/
def Obligations.CarryAssociativity : Prop :=
  ∀ (s : State) (a b : Nat), ∃ t : State, exec (.advance a) s = .next t ∧
    exec (.advance b) t = exec (.advance (a + b)) s

/-- From every state that meets the carry invariant, the machine run for d steps on d waiting operations advance(1)
ends where one advance(d) ends. [40_sequencer.md rule R146] -/
def Obligations.DotClocked : Prop :=
  ∀ (s : State) (d : Nat), s.CarryOk →
    Host.Core.run Sys2Proof.core d { s with pending := List.replicate d (.advance 1) } =
      exec (.advance d) { s with pending := [] }

/-- From every state in mode 2 with acc 0 and LY at most 143: advance(d) is in mode 2 with acc d for d below 80, in
mode 3 with acc d - 80 for d from 80 to 251, in mode 0 with acc d - 252 for d from 252 to 455, LY unchanged;
advance(456) has acc 0, LY one more, and mode 1 when LY reached 144, mode 2 otherwise. From every state in mode
1 with acc 0 and LY at most 152: advance(d) for d below 456 has acc d and changes neither mode nor LY;
advance(456) has acc 0, LY one more, mode 1. [40_sequencer.md rule R161, 40_sequencer.md rule R140] -/
def Obligations.LineDuration : Prop :=
  (∀ s : State, s.mode = .oamSearch → s.acc = 0 → s.ly.toNat ≤ 143 →
    (∀ d : Nat, d < 456 → ∃ t : State, exec (.advance d) s = .next t ∧ t.ly = s.ly ∧
      (t.mode, t.acc) = if d < 80 then (.oamSearch, d) else if d < 252 then (.pixelTransfer, d - 80)
        else (.hblank, d - 252)) ∧
    ∃ t : State, exec (.advance 456) s = .next t ∧ t.acc = 0 ∧ t.ly.toNat = s.ly.toNat + 1 ∧
      t.mode = if s.ly.toNat = 143 then .vblank else .oamSearch) ∧
  ∀ s : State, s.mode = .vblank → s.acc = 0 → s.ly.toNat ≤ 152 →
    (∀ d : Nat, d < 456 → ∃ t : State, exec (.advance d) s = .next t ∧ t.ly = s.ly ∧ t.mode = .vblank ∧ t.acc = d) ∧
    ∃ t : State, exec (.advance 456) s = .next t ∧ t.acc = 0 ∧ t.ly.toNat = s.ly.toNat + 1 ∧ t.mode = .vblank

/-- From every state in mode 2 with acc 0 and LY 0, advance(70224) completes back in mode 2 with acc 0, LY 0,
windowLine 0; it emits exactly LINE_READY(0) to LINE_READY(143) in order, one IRQ_VBLANK, one FRAME_READY and
144 HDMA_HBLANK. [40_sequencer.md rule R165, 40_sequencer.md rule R161, 60_exceptions.md rule R349,
60_exceptions.md rule R350] -/
def Obligations.FrameOfEvents : Prop :=
  ∀ s : State, s.mode = .oamSearch → s.acc = 0 → s.ly = 0 →
    ∃ (t : State) (new : List Event), exec (.advance 70224) s = .next t ∧
      t.mode = .oamSearch ∧ t.acc = 0 ∧ t.ly = 0 ∧ t.windowLine = 0 ∧ t.events = s.events ++ new ∧
      new.count .irqVblank = 1 ∧ new.count .frameReady = 1 ∧ new.count .hdmaHblank = 144 ∧
      new.filter isLineReady = (List.range 144).map fun k => .lineReady (BitVec.ofNat 8 k)

/-- From every state in mode 1 with LY 0 (what an LY write in VBlank leaves) and acc below 456, every advance short
of 70224 - acc dots stays in mode 1 and leaves the Frame Store alone, and advance(70224 - acc) wraps to mode 2,
LY 0, acc 0, still without rendering. [40_sequencer.md rule R167, 40_sequencer.md rule R166] -/
def Obligations.VblankAfterLyWrite : Prop :=
  ∀ s : State, s.mode = .vblank → s.ly = 0 → s.acc < 456 →
    (∀ d : Nat, d < 70224 - s.acc →
      ∃ t : State, exec (.advance d) s = .next t ∧ t.mode = .vblank ∧ t.frame = s.frame) ∧
    ∃ t : State, exec (.advance (70224 - s.acc)) s = .next t ∧ t.mode = .oamSearch ∧ t.ly = 0 ∧ t.acc = 0 ∧
      t.frame = s.frame

/-- State.reset: mode 2, acc 0, LY 0, windowLine 0, STAT reads 0x06, an empty sprite list, both transient buffers
clear, registers, memories, palettes and Frame Store 0 (launch contents 0: the spec's default D7, log entry 2),
no port operation and no hook write waiting, no event and no byte put out (the model's own fields, log entries 3
to 5); it is powerOn of the defaults and meets the memory, carry, LY and sprite-list invariants. [10_state.md
rule R55, 70_reset_and_hazards.md rule R370, log entry 2, log entry 3, log entry 4, log entry 5] -/
def Obligations.ResetState : Prop :=
  State.reset.mode = .oamSearch ∧ State.reset.acc = 0 ∧ State.reset.ly = 0 ∧ State.reset.windowLine = 0 ∧
  State.reset.stat = 0x06 ∧ State.reset.spriteList = [] ∧ State.reset.lcdc = 0 ∧ State.reset.lyc = 0 ∧
  State.reset.scy = 0 ∧ State.reset.scx = 0 ∧ State.reset.wy = 0 ∧ State.reset.wx = 0 ∧ State.reset.bgp = 0 ∧
  State.reset.obp0 = 0 ∧ State.reset.obp1 = 0 ∧ State.reset.vbk = 0 ∧ State.reset.bcps.toByte = 0 ∧
  State.reset.ocps.toByte = 0 ∧ State.reset.vram = [] ∧ State.reset.oam = [] ∧ State.reset.events = [] ∧
  State.reset.reads = [] ∧ State.reset.pending = [] ∧ State.reset.hookWrites = [] ∧
  State.reset.statHi = 0 ∧ State.reset.coincidence = true ∧
  (∀ k : Fin columns, State.reset.idxBuf.get k = 0 ∧ State.reset.prioBuf.get k = false) ∧
  (∀ j : Nat, j < 64 → entryOf State.reset.bgPal j = 0 ∧ entryOf State.reset.objPal j = 0) ∧
  (∀ (r : Fin rows) (k : Fin columns), (State.reset.frame.get r).get k = 0) ∧
  State.reset.cfg = Config.default ∧ State.reset.cfg.Valid ∧ State.powerOn Config.default Launch.zero = State.reset ∧
  State.reset.MemoryOk ∧ State.reset.CarryOk ∧ State.reset.LyOk ∧ State.reset.SpritesOk

/-- For all parameters and all launch contents: mode 2, acc 0, LY 0, windowLine 0, flag = (LYC == 0), buffers clear,
no events, the sprite list that of a search at LY 0, the launch contents in the registers and memories; the
invariants hold. (Decisions D6 and D7 of the spec.) [70_reset_and_hazards.md rule R370, 10_state.md rule R55] -/
def Obligations.PowerOnState : Prop :=
  ∀ (c : Config) (l : Launch), l.Ok → ∀ t : State, t = State.powerOn c l →
    t.mode = .oamSearch ∧ t.acc = 0 ∧ t.ly = 0 ∧ t.windowLine = 0 ∧ t.coincidence = decide (l.lyc = 0) ∧
    t.events = [] ∧ t.cfg = c ∧ t.lcdc = l.lcdc ∧ t.statHi = l.statHi ∧ t.lyc = l.lyc ∧ t.scy = l.scy ∧
    t.scx = l.scx ∧ t.wy = l.wy ∧ t.wx = l.wx ∧ t.bgp = l.bgp ∧ t.obp0 = l.obp0 ∧ t.obp1 = l.obp1 ∧
    t.vbk = l.vbk ∧ t.bcps = l.bcps ∧ t.ocps = l.ocps ∧ t.vram = l.vram ∧ t.oam = l.oam ∧
    t.bgPal = l.bgPal ∧ t.objPal = l.objPal ∧ t.frame = l.frame ∧
    (∀ k : Fin columns, t.idxBuf.get k = 0 ∧ t.prioBuf.get k = false) ∧ t.ListIsSearched ∧
    t.MemoryOk ∧ t.CarryOk ∧ t.LyOk ∧ t.SpritesOk

/-- If VRAM and OAM are sorted without an entry equal to the unlisted byte, and list only addresses below 0x4000 and
160, then so they are after every step. The address ranges are the spec's; the canonical form, with its unlisted
byte 0, is the model's choice (log entry 9). [20_memory.md rule R96, 10_state.md rule R43, 10_state.md rule R41,
10_state.md rule R42, log entry 9] -/
def Obligations.StepKeepsMemoryCanonical : Prop :=
  ∀ s t : State, s.MemoryOk → step s = .next t → t.MemoryOk

/-- If the accumulator is below the duration of the mode, it is so after every step, whatever port operation the
step performs. [40_sequencer.md rule R144] -/
def Obligations.StepKeepsCarry : Prop :=
  ∀ s t : State, s.CarryOk → step s = .next t → t.CarryOk

/-- If LY is in the range of the mode, it is so after every step; the value 154 is never stored. [40_sequencer.md
rule R160] -/
def Obligations.StepKeepsLyRange : Prop :=
  ∀ s t : State, s.LyOk → step s = .next t → t.LyOk

/-- If the sprite list has at most 10 record numbers in strictly increasing order, it has so after every step.
[10_state.md rule R57, 20_memory.md rule R96] -/
def Obligations.StepKeepsSpriteList : Prop :=
  ∀ s t : State, s.SpritesOk → step s = .next t → t.SpritesOk

/-- For every instruction, the parameters after a next state are those before. That COLOR_MODE is constant is R56
(decision D4 of the spec); that every other parameter of R12 is constant too is the model's choice (log entry
1). [10_state.md rule R56, 00_scope.md rule R12, log entry 1] -/
def Obligations.ParametersAreConstant : Prop :=
  ∀ (i : Instr) (s t : State), exec i s = .next t → t.cfg = s.cfg

/-- For every instruction and state, exec answers a next state, except RENDER_LINE with ly at least 144, which it
refuses by name (the bound is decision D39 of the spec); no instruction faults. That a transition row executed
where it is not selected answers a next state is the model's choice (log entry 7). [60_exceptions.md rule R330,
60_exceptions.md rule R332, 30_encoding.md rule R121, 41_compositor.md rule R191, log entry 7] -/
def Obligations.OnlyInvisibleRenderLineIsRefused : Prop :=
  ∀ (i : Instr) (s : State), (∃ t : State, exec i s = .next t) ∨
    ∃ ly : Byte, i = .renderLine ly ∧ 144 ≤ ly.toNat ∧ exec i s = .refused (.renderLineNotVisible ly)

/-- For ly at most 143 the call completes in every state, changes nothing but the Frame Store, the transient buffers
and windowLine, and every other row is unchanged; for ly at least 144 it is refused by name (decision D39 of the
spec). [41_compositor.md rule R190, 41_compositor.md rule R191] -/
def Obligations.RenderLineContract : Prop :=
  ∀ (s : State) (ly : Byte),
    (ly.toNat ≤ 143 → ∃ t : State, exec (.renderLine ly) s = .next t ∧
      t = { s with frame := t.frame, idxBuf := t.idxBuf, prioBuf := t.prioBuf, windowLine := t.windowLine } ∧
      ∀ r : Fin rows, r.val ≠ ly.toNat → t.frame.get r = s.frame.get r) ∧
    (144 ≤ ly.toNat → exec (.renderLine ly) s = .refused (.renderLineNotVisible ly))

/-- With the display disabled, renderLine changes the Frame Store only, and every pixel of row ly is BLANK_COLOR.
(Decisions D23 and D42 of the spec.) [41_compositor.md rule R193] -/
def Obligations.BlankedLine : Prop :=
  ∀ (s : State) (ly : Byte) (h : ly.toNat < rows), s.lcdc[7] = false →
    ∃ t : State, exec (.renderLine ly) s = .next t ∧ t = { s with frame := t.frame } ∧
      ∀ col : Fin columns, (t.frame.get ⟨ly.toNat, h⟩).get col = s.cfg.blankColor

/-- With LCDC.7 set and LCDC.0 and LCDC.1 clear (the window needs LCDC.0), renderLine leaves row ly all BLANK_COLOR,
idxBuf all 0, prioBuf all false, and windowLine unchanged. (Decision D24 of the spec.) [41_compositor.md rule
R192, 41_compositor.md rule R194] -/
def Obligations.LayersOffLine : Prop :=
  ∀ (s : State) (ly : Byte) (h : ly.toNat < rows), s.lcdc[7] = true → s.lcdc[0] = false →
    s.lcdc[1] = false → ∃ t : State, exec (.renderLine ly) s = .next t ∧ t.windowLine = s.windowLine ∧
      ∀ col : Fin columns, (t.frame.get ⟨ly.toNat, h⟩).get col = s.cfg.blankColor ∧
        t.idxBuf.get col = 0 ∧ t.prioBuf.get col = false

/-- With LCDC.7 and LCDC.0 set, in a column the window does not cover, idxBuf holds the colour index of that point,
prioBuf its priority in colour mode and false in monochrome mode, and with the sprites off the row holds its
colour: through BGP and the four shades, or through the palette table and the conversion of R236, the
parameter's table entry or the formula in numbers. (Layouts and conversion: decisions D18, D20, D22, D25, D31 of
the spec.) [41_compositor.md rule R195, 41_compositor.md rule R196, 41_compositor.md rule R200, 41_compositor.md
rule R203, 41_compositor.md rule R204, 41_compositor.md rule R205, 41_compositor.md rule R232, 41_compositor.md
rule R236] -/
def Obligations.BackgroundColumns : Prop :=
  ∀ (s : State) (ly : Byte) (h : ly.toNat < rows) (col : Fin columns),
    s.lcdc[7] = true → s.lcdc[0] = true → (¬ WindowShows s ly ∨ col.val + 7 < s.wx.toNat) →
    ∃ t : State, exec (.renderLine ly) s = .next t ∧
      let pt := planePoint s (s.lcdc[3]) ((s.scx.toNat + col.val) % 256) ((s.scy.toNat + ly.toNat) % 256)
      (t.idxBuf.get col).toNat = pt.1 ∧ t.prioBuf.get col = (s.cfg.colorMode && pt.2[7]) ∧
      (s.lcdc[1] = false → (t.frame.get ⟨ly.toNat, h⟩).get col = planeColor s pt)

/-- With LCDC.7 set and the window shown on the line, every column from WX - 7 on holds in idxBuf, prioBuf and
(sprites off) the row the point of the map of LCDC.6 at the column less WX - 7 and the row windowLine,
overwriting the background, its colour through the shades or the conversion of R236 as for the background.
(Decisions D28 and D31 of the spec.) [41_compositor.md rule R206, 41_compositor.md rule R207, 41_compositor.md
rule R208, 41_compositor.md rule R209, 41_compositor.md rule R210, 41_compositor.md rule R232, 41_compositor.md
rule R236] -/
def Obligations.WindowColumns : Prop :=
  ∀ (s : State) (ly : Byte) (h : ly.toNat < rows) (col : Fin columns),
    s.lcdc[7] = true → WindowShows s ly → s.wx.toNat ≤ col.val + 7 →
    ∃ t : State, exec (.renderLine ly) s = .next t ∧
      let pt := planePoint s (s.lcdc[6]) (col.val + 7 - s.wx.toNat) s.windowLine.toNat
      (t.idxBuf.get col).toNat = pt.1 ∧ t.prioBuf.get col = (s.cfg.colorMode && pt.2[7]) ∧
      (s.lcdc[1] = false → (t.frame.get ⟨ly.toNat, h⟩).get col = planeColor s pt)

/-- renderLine(ly) leaves windowLine one more (mod 256) when the display is on and the window shows on the line, and
unchanged otherwise. [41_compositor.md rule R211, 41_compositor.md rule R206] -/
def Obligations.WindowLineCounter : Prop :=
  ∀ (s : State) (ly : Byte), ly.toNat < rows → ∃ t : State, exec (.renderLine ly) s = .next t ∧
    (s.lcdc[7] = true ∧ WindowShows s ly → t.windowLine = s.windowLine + 1) ∧
    (¬ (s.lcdc[7] = true ∧ WindowShows s ly) → t.windowLine = s.windowLine)

/-- With the display and sprites on and a strictly increasing sprite list: a column where a listed sprite draws a
pixel, and every listed sprite that outranks it (lower X then lower record number in monochrome mode, lower
record number in colour mode) draws none, shows that sprite's pixel; a column where none draws shows the
background's. [R214, R215, R216] -/
def Obligations.SpritePriority : Prop :=
  ∀ (s : State) (ly : Byte) (h : ly.toNat < rows) (col : Fin columns),
    s.lcdc[7] = true → s.lcdc[1] = true → s.SpritesOk →
    ∃ t : State, exec (.renderLine ly) s = .next t ∧
      let p := s.basePixel ly col.val
      (∀ (n : Fin 40) (c : Argb), n ∈ s.spriteList → s.spritePixel ly col.val p n = some c →
        (∀ m ∈ s.spriteList, s.Outranks m n → s.spritePixel ly col.val p m = none) →
        (t.frame.get ⟨ly.toNat, h⟩).get col = c) ∧
      ((∀ m ∈ s.spriteList, s.spritePixel ly col.val p m = none) →
        (t.frame.get ⟨ly.toNat, h⟩).get col = p.color)

/-- With the display and sprites on, LCDC.0 either way, and one record in the sprite list: every column where the
record has an opaque pixel (row, flips, 8×16 tiles, bank, palette and colour conversion as the rules give them)
that the background does not hide, by the rule of the mode and parameter over the buffers the line leaves, shows
that pixel; every other column shows what the same line shows with LCDC.1 clear. The buffers are those of that
line too; with LCDC.0 clear they are 0 and false and the colour under the sprite is BLANK_COLOR. (Geometry,
attribute bits, hiding and conversion: decisions D26, D27, D29, D30 and D31 of the spec.) [41_compositor.md
section 5, 41_compositor.md rule R212, 41_compositor.md rule R217, 41_compositor.md rule R218, 41_compositor.md
rule R219, 41_compositor.md rule R220, 41_compositor.md rule R221, 41_compositor.md rule R225, 41_compositor.md
rule R226, 41_compositor.md rule R227, 41_compositor.md rule R228, 41_compositor.md rule R236] -/
def Obligations.SingleSpriteColumns : Prop :=
  ∀ (s : State) (ly : Byte) (h : ly.toNat < rows) (col : Fin columns) (n : Fin 40),
    s.lcdc[7] = true → s.lcdc[1] = true → s.spriteList = [n] →
    ∃ t u : State, exec (.renderLine ly) s = .next t ∧
      exec (.renderLine ly) { s with lcdc := s.lcdc &&& 0xFD } = .next u ∧
      t.idxBuf = u.idxBuf ∧ t.prioBuf = u.prioBuf ∧
      let under := (u.frame.get ⟨ly.toNat, h⟩).get col
      (∀ c : Argb, opaqueSpritePixel s ly n col.val = some c →
        (¬ HiddenAt s n (t.idxBuf.get col) (t.prioBuf.get col) → (t.frame.get ⟨ly.toNat, h⟩).get col = c) ∧
        (HiddenAt s n (t.idxBuf.get col) (t.prioBuf.get col) → (t.frame.get ⟨ly.toNat, h⟩).get col = under)) ∧
      (opaqueSpritePixel s ly n col.val = none → (t.frame.get ⟨ly.toNat, h⟩).get col = under) ∧
      (s.lcdc[0] = false → under = s.cfg.blankColor ∧ t.idxBuf.get col = 0 ∧ t.prioBuf.get col = false)

/-- With the display on, a column where every sprite of the list is hidden by the background, by the rule of the
mode and parameter over the buffers the line leaves, shows what the background and window passes put there.
(Decisions D29 and D30 of the spec.) [41_compositor.md rule R225, 41_compositor.md rule R226, 41_compositor.md
rule R235] -/
def Obligations.HiddenSpritesLeaveBackground : Prop :=
  ∀ (s : State) (ly : Byte) (h : ly.toNat < rows) (col : Fin columns), s.lcdc[7] = true →
    ∃ t : State, exec (.renderLine ly) s = .next t ∧
      ((∀ n ∈ s.spriteList, HiddenAt s n (t.idxBuf.get col) (t.prioBuf.get col)) →
        (t.frame.get ⟨ly.toNat, h⟩).get col = (s.basePixel ly col.val).color)

/-- States that agree in parameters, LCDC, scroll and window registers, palettes, VRAM, OAM, sprite list and
windowLine, whatever LY, LYC, STAT, mode, acc, VBK and the palette indices are, render equal rows, leave equal
windowLine and, with the display on, equal buffers. [41_compositor.md rule R230, 41_compositor.md rule R190] -/
def Obligations.RenderDependsOnlyOnItsInputs : Prop :=
  ∀ (s u : State) (ly : Byte) (h : ly.toNat < rows), SameRenderInputs s u →
    ∃ t v : State, exec (.renderLine ly) s = .next t ∧ exec (.renderLine ly) u = .next v ∧
      t.frame.get ⟨ly.toNat, h⟩ = v.frame.get ⟨ly.toNat, h⟩ ∧ t.windowLine = v.windowLine ∧
      (s.lcdc[7] = true → t.idxBuf = v.idxBuf ∧ t.prioBuf = v.prioBuf)

/-- With COLOR_MODE false, after every step every byte of VRAM bank 1 reads as before, and VBK, BCPS, OCPS, BGPAL
and OBJPAL are unchanged. (Decisions D4 and D33 of the spec.) That a hook call inside advance writes VRAM only,
through the bus window and so in bank 0 here, is the model's choice (log entry 5). [10_state.md rule R56,
20_memory.md rule R82, 42_palette.md rule R264, log entry 5] -/
def Obligations.MonochromeIsolation : Prop :=
  ∀ s t : State, s.cfg.colorMode = false → step s = .next t →
    (∀ off : Nat, off < 0x2000 → t.vram.read (0x2000 + off) = s.vram.read (0x2000 + off)) ∧
    t.vbk = s.vbk ∧ t.bcps = s.bcps ∧ t.ocps = s.ocps ∧ t.bgPal = s.bgPal ∧ t.objPal = s.objPal
end

