-- ==== Sys2Proof/Laws/Memory.lean ====
section
/-! SUPPORT. Laws of the byte memories: a read after a write, and that a write keeps the canonical form. -/

namespace Sys2Proof.Machine

@[simp] theorem Memory.read_nil (a : Nat) : Memory.read [] a = Memory.unlisted := rfl

theorem Memory.wf_nil : Memory.wf [] := ⟨by simp, by simp⟩

theorem Memory.wf_tail {c : Host.Cell} {m : Memory} (h : Memory.wf (c :: m)) : Memory.wf m :=
  ⟨(List.pairwise_cons.mp h.1).2, fun d hd => h.2 d (List.mem_cons_of_mem c hd)⟩

/-- An address below every listed one reads as unlisted. -/
theorem Memory.read_of_lt_all {m : Memory} {a : Nat} (h : ∀ c ∈ m, a < c.1) : m.read a = Memory.unlisted := by
  induction m with
  | nil => rfl
  | cons c t ih =>
    have hc := h c (by simp)
    simp only [Memory.read]
    rw [if_neg (by omega)]
    exact ih fun d hd => h d (by simp [hd])

/-- A read at the address written gives the byte written. -/
theorem Memory.read_write_same {m : Memory} (h : m.wf) (a : Nat) (v : Byte) : (m.write a v).read a = v := by
  induction m with
  | nil =>
    by_cases hv : v = Memory.unlisted
    · simp [Memory.write, hv]
    · simp [Memory.write, Memory.read, hv]
  | cons c t ih =>
    obtain ⟨b, w⟩ := c
    have hlt : ∀ d ∈ t, b < d.1 := (List.pairwise_cons.mp h.1).1
    simp only [Memory.write]
    by_cases h1 : a < b
    · rw [if_pos h1]
      by_cases hv : v = Memory.unlisted
      · rw [if_pos hv, hv]
        exact Memory.read_of_lt_all fun d hd => by
          rcases List.mem_cons.mp hd with rfl | hd
          · exact h1
          · exact h1.trans (hlt d hd)
      · simp [hv, Memory.read]
    · rw [if_neg h1]
      by_cases h2 : a = b
      · rw [if_pos h2]
        by_cases hv : v = Memory.unlisted
        · rw [if_pos hv, hv]
          exact Memory.read_of_lt_all fun d hd => by have := hlt d hd; omega
        · simp [hv, Memory.read]
      · rw [if_neg h2]
        simp only [Memory.read, if_neg h2]
        exact ih (Memory.wf_tail h)

/-- A write leaves every other address as it was; the memory need not be in canonical form. -/
theorem Memory.read_write_other (m : Memory) {a x : Nat} (v : Byte) (hx : x ≠ a) :
    (m.write a v).read x = m.read x := by
  induction m with
  | nil =>
    by_cases hv : v = Memory.unlisted <;> simp [Memory.write, Memory.read, hv, hx]
  | cons c t ih =>
    obtain ⟨b, w⟩ := c
    simp only [Memory.write]
    split
    · split <;> simp [Memory.read, hx]
    · split
      · rename_i h2
        subst h2
        split <;> simp [Memory.read, hx]
      · simp [Memory.read, ih]

/-- A written memory lists no address but the one written and those it listed. -/
theorem Memory.mem_write {m : Memory} {a : Nat} {v : Byte} {c : Host.Cell} (h : c ∈ m.write a v) :
    c = (a, v) ∧ v ≠ Memory.unlisted ∨ c ∈ m := by
  induction m with
  | nil =>
    by_cases hv : v = Memory.unlisted <;> simp_all [Memory.write]
  | cons d t ih =>
    obtain ⟨b, w⟩ := d
    simp only [Memory.write] at h
    split at h
    · split at h
      · exact .inr h
      · rcases List.mem_cons.mp h with rfl | h
        · exact .inl ⟨rfl, ‹_›⟩
        · exact .inr h
    · split at h
      · split at h
        · exact .inr (List.mem_cons_of_mem _ h)
        · rcases List.mem_cons.mp h with rfl | h
          · exact .inl ⟨rfl, ‹_›⟩
          · exact .inr (List.mem_cons_of_mem _ h)
      · rcases List.mem_cons.mp h with rfl | h
        · exact .inr (by simp)
        · rcases ih h with h | h
          · exact .inl h
          · exact .inr (List.mem_cons_of_mem _ h)

/-- A write keeps the canonical form. -/
theorem Memory.write_wf {m : Memory} (h : m.wf) (a : Nat) (v : Byte) : (m.write a v).wf := by
  refine ⟨?_, fun c hc => ?_⟩
  · induction m with
    | nil => by_cases hv : v = Memory.unlisted <;> simp [Memory.write, hv]
    | cons d t ih =>
      obtain ⟨b, w⟩ := d
      obtain ⟨hlt, ht⟩ := List.pairwise_cons.mp h.1
      simp only [Memory.write]
      split
      · rename_i h1
        split
        · exact h.1
        · refine List.pairwise_cons.mpr ⟨fun e he => ?_, h.1⟩
          rcases List.mem_cons.mp he with rfl | he
          · exact h1
          · exact h1.trans (hlt e he)
      · split
        · rename_i h1 h2
          subst h2
          split
          · exact ht
          · exact List.pairwise_cons.mpr ⟨hlt, ht⟩
        · rename_i h1 h2
          refine List.pairwise_cons.mpr ⟨fun e he => ?_, ih (Memory.wf_tail h)⟩
          rcases Memory.mem_write he with ⟨rfl, -⟩ | he
          · show b < a
            omega
          · exact hlt e he
  · rcases Memory.mem_write hc with ⟨rfl, hv⟩ | hc
    · exact hv
    · exact h.2 c hc

/-- A write below a bound keeps every listed address below it. -/
theorem Memory.write_bound {m : Memory} {bound a : Nat} {v : Byte} (h : ∀ c ∈ m, c.1 < bound) (ha : a < bound) :
    ∀ c ∈ m.write a v, c.1 < bound := fun c hc => by
  rcases Memory.mem_write hc with ⟨rfl, -⟩ | hc
  · exact ha
  · exact h c hc

/-- Memories in canonical form that read alike are equal. -/
theorem Memory.ext {m k : Memory} (hm : m.wf) (hk : k.wf) (h : ∀ a, m.read a = k.read a) : m = k := by
  induction m generalizing k with
  | nil =>
    cases k with
    | nil => rfl
    | cons d t =>
      have := h d.1
      simp only [Memory.read, if_pos] at this
      exact absurd this.symm (hk.2 d (by simp))
  | cons c t ih =>
    cases k with
    | nil =>
      have := h c.1
      simp only [Memory.read, if_pos] at this
      exact absurd this (hm.2 c (by simp))
    | cons d u =>
      obtain ⟨hc, ht⟩ := List.pairwise_cons.mp hm.1
      obtain ⟨hd, hu⟩ := List.pairwise_cons.mp hk.1
      have key : c.1 = d.1 := by
        rcases Nat.lt_trichotomy c.1 d.1 with hlt | heq | hlt
        · have e := h c.1
          rw [Memory.read_of_lt_all (m := d :: u)] at e
          · simp only [Memory.read, if_pos] at e
            exact absurd e (hm.2 c (by simp))
          · intro x hx
            rcases List.mem_cons.mp hx with rfl | hx
            · exact hlt
            · exact hlt.trans (hd x hx)
        · exact heq
        · have e := h d.1
          rw [Memory.read_of_lt_all (m := c :: t)] at e
          · simp only [Memory.read, if_pos] at e
            exact absurd e.symm (hk.2 d (by simp))
          · intro x hx
            rcases List.mem_cons.mp hx with rfl | hx
            · exact hlt
            · exact hlt.trans (hc x hx)
      have val : c.2 = d.2 := by
        have e := h c.1
        simp only [Memory.read, if_pos, key] at e
        exact e
      have tails : ∀ a, Memory.read t a = Memory.read u a := by
        intro a
        by_cases ha : a = c.1
        · subst ha
          rw [Memory.read_of_lt_all hc, Memory.read_of_lt_all (fun x hx => key ▸ hd x hx)]
        · have e := h a
          simpa only [Memory.read, if_neg ha, if_neg (key ▸ ha)] using e
      rw [ih (Memory.wf_tail hm) (Memory.wf_tail hk) tails, Prod.ext key val]

/-- The flat VRAM index stays inside the two banks (R41). -/
theorem vramIndex_lt (bank : BitVec 1) (off : Nat) : vramIndex bank off < 0x4000 := by
  have := bank.isLt
  unfold vramIndex
  omega

end Sys2Proof.Machine
end

