-- ==== Sys2Proof/Laws/State.lean ====
section
/-! SUPPORT. What each named update leaves in each field of the state, one lemma per field per update. -/

namespace Sys2Proof.Machine

/-! ### `State.emit` -/

@[simp] theorem State.emit_cfg (s : State) (e : Event) : (s.emit e).cfg = s.cfg := rfl
@[simp] theorem State.emit_lcdc (s : State) (e : Event) : (s.emit e).lcdc = s.lcdc := rfl
@[simp] theorem State.emit_statHi (s : State) (e : Event) : (s.emit e).statHi = s.statHi := rfl
@[simp] theorem State.emit_coincidence (s : State) (e : Event) : (s.emit e).coincidence = s.coincidence := rfl
@[simp] theorem State.emit_ly (s : State) (e : Event) : (s.emit e).ly = s.ly := rfl
@[simp] theorem State.emit_lyc (s : State) (e : Event) : (s.emit e).lyc = s.lyc := rfl
@[simp] theorem State.emit_scy (s : State) (e : Event) : (s.emit e).scy = s.scy := rfl
@[simp] theorem State.emit_scx (s : State) (e : Event) : (s.emit e).scx = s.scx := rfl
@[simp] theorem State.emit_wy (s : State) (e : Event) : (s.emit e).wy = s.wy := rfl
@[simp] theorem State.emit_wx (s : State) (e : Event) : (s.emit e).wx = s.wx := rfl
@[simp] theorem State.emit_bgp (s : State) (e : Event) : (s.emit e).bgp = s.bgp := rfl
@[simp] theorem State.emit_obp0 (s : State) (e : Event) : (s.emit e).obp0 = s.obp0 := rfl
@[simp] theorem State.emit_obp1 (s : State) (e : Event) : (s.emit e).obp1 = s.obp1 := rfl
@[simp] theorem State.emit_vbk (s : State) (e : Event) : (s.emit e).vbk = s.vbk := rfl
@[simp] theorem State.emit_bcps (s : State) (e : Event) : (s.emit e).bcps = s.bcps := rfl
@[simp] theorem State.emit_ocps (s : State) (e : Event) : (s.emit e).ocps = s.ocps := rfl
@[simp] theorem State.emit_bgPal (s : State) (e : Event) : (s.emit e).bgPal = s.bgPal := rfl
@[simp] theorem State.emit_objPal (s : State) (e : Event) : (s.emit e).objPal = s.objPal := rfl
@[simp] theorem State.emit_vram (s : State) (e : Event) : (s.emit e).vram = s.vram := rfl
@[simp] theorem State.emit_oam (s : State) (e : Event) : (s.emit e).oam = s.oam := rfl
@[simp] theorem State.emit_mode (s : State) (e : Event) : (s.emit e).mode = s.mode := rfl
@[simp] theorem State.emit_acc (s : State) (e : Event) : (s.emit e).acc = s.acc := rfl
@[simp] theorem State.emit_windowLine (s : State) (e : Event) : (s.emit e).windowLine = s.windowLine := rfl
@[simp] theorem State.emit_spriteList (s : State) (e : Event) : (s.emit e).spriteList = s.spriteList := rfl
@[simp] theorem State.emit_idxBuf (s : State) (e : Event) : (s.emit e).idxBuf = s.idxBuf := rfl
@[simp] theorem State.emit_prioBuf (s : State) (e : Event) : (s.emit e).prioBuf = s.prioBuf := rfl
@[simp] theorem State.emit_frame (s : State) (e : Event) : (s.emit e).frame = s.frame := rfl
@[simp] theorem State.emit_pending (s : State) (e : Event) : (s.emit e).pending = s.pending := rfl
@[simp] theorem State.emit_hookWrites (s : State) (e : Event) : (s.emit e).hookWrites = s.hookWrites := rfl
@[simp] theorem State.emit_events (s : State) (e : Event) : (s.emit e).events = s.events ++ [e] := rfl
@[simp] theorem State.emit_reads (s : State) (e : Event) : (s.emit e).reads = s.reads := rfl

/-! ### `State.returnByte` -/

@[simp] theorem State.returnByte_cfg (s : State) (b : Byte) : (s.returnByte b).cfg = s.cfg := rfl
@[simp] theorem State.returnByte_lcdc (s : State) (b : Byte) : (s.returnByte b).lcdc = s.lcdc := rfl
@[simp] theorem State.returnByte_statHi (s : State) (b : Byte) : (s.returnByte b).statHi = s.statHi := rfl
@[simp] theorem State.returnByte_coincidence (s : State) (b : Byte) : (s.returnByte b).coincidence = s.coincidence := rfl
@[simp] theorem State.returnByte_ly (s : State) (b : Byte) : (s.returnByte b).ly = s.ly := rfl
@[simp] theorem State.returnByte_lyc (s : State) (b : Byte) : (s.returnByte b).lyc = s.lyc := rfl
@[simp] theorem State.returnByte_scy (s : State) (b : Byte) : (s.returnByte b).scy = s.scy := rfl
@[simp] theorem State.returnByte_scx (s : State) (b : Byte) : (s.returnByte b).scx = s.scx := rfl
@[simp] theorem State.returnByte_wy (s : State) (b : Byte) : (s.returnByte b).wy = s.wy := rfl
@[simp] theorem State.returnByte_wx (s : State) (b : Byte) : (s.returnByte b).wx = s.wx := rfl
@[simp] theorem State.returnByte_bgp (s : State) (b : Byte) : (s.returnByte b).bgp = s.bgp := rfl
@[simp] theorem State.returnByte_obp0 (s : State) (b : Byte) : (s.returnByte b).obp0 = s.obp0 := rfl
@[simp] theorem State.returnByte_obp1 (s : State) (b : Byte) : (s.returnByte b).obp1 = s.obp1 := rfl
@[simp] theorem State.returnByte_vbk (s : State) (b : Byte) : (s.returnByte b).vbk = s.vbk := rfl
@[simp] theorem State.returnByte_bcps (s : State) (b : Byte) : (s.returnByte b).bcps = s.bcps := rfl
@[simp] theorem State.returnByte_ocps (s : State) (b : Byte) : (s.returnByte b).ocps = s.ocps := rfl
@[simp] theorem State.returnByte_bgPal (s : State) (b : Byte) : (s.returnByte b).bgPal = s.bgPal := rfl
@[simp] theorem State.returnByte_objPal (s : State) (b : Byte) : (s.returnByte b).objPal = s.objPal := rfl
@[simp] theorem State.returnByte_vram (s : State) (b : Byte) : (s.returnByte b).vram = s.vram := rfl
@[simp] theorem State.returnByte_oam (s : State) (b : Byte) : (s.returnByte b).oam = s.oam := rfl
@[simp] theorem State.returnByte_mode (s : State) (b : Byte) : (s.returnByte b).mode = s.mode := rfl
@[simp] theorem State.returnByte_acc (s : State) (b : Byte) : (s.returnByte b).acc = s.acc := rfl
@[simp] theorem State.returnByte_windowLine (s : State) (b : Byte) : (s.returnByte b).windowLine = s.windowLine := rfl
@[simp] theorem State.returnByte_spriteList (s : State) (b : Byte) : (s.returnByte b).spriteList = s.spriteList := rfl
@[simp] theorem State.returnByte_idxBuf (s : State) (b : Byte) : (s.returnByte b).idxBuf = s.idxBuf := rfl
@[simp] theorem State.returnByte_prioBuf (s : State) (b : Byte) : (s.returnByte b).prioBuf = s.prioBuf := rfl
@[simp] theorem State.returnByte_frame (s : State) (b : Byte) : (s.returnByte b).frame = s.frame := rfl
@[simp] theorem State.returnByte_pending (s : State) (b : Byte) : (s.returnByte b).pending = s.pending := rfl
@[simp] theorem State.returnByte_hookWrites (s : State) (b : Byte) : (s.returnByte b).hookWrites = s.hookWrites := rfl
@[simp] theorem State.returnByte_events (s : State) (b : Byte) : (s.returnByte b).events = s.events := rfl
@[simp] theorem State.returnByte_reads (s : State) (b : Byte) : (s.returnByte b).reads = s.reads ++ [b] := rfl

/-! ### `State.vramWrite` -/

@[simp] theorem State.vramWrite_cfg (s : State) (k : BitVec 1) (o : Nat) (v : Byte) : (s.vramWrite k o v).cfg = s.cfg := rfl
@[simp] theorem State.vramWrite_lcdc (s : State) (k : BitVec 1) (o : Nat) (v : Byte) : (s.vramWrite k o v).lcdc = s.lcdc := rfl
@[simp] theorem State.vramWrite_statHi (s : State) (k : BitVec 1) (o : Nat) (v : Byte) : (s.vramWrite k o v).statHi = s.statHi := rfl
@[simp] theorem State.vramWrite_coincidence (s : State) (k : BitVec 1) (o : Nat) (v : Byte) : (s.vramWrite k o v).coincidence = s.coincidence := rfl
@[simp] theorem State.vramWrite_ly (s : State) (k : BitVec 1) (o : Nat) (v : Byte) : (s.vramWrite k o v).ly = s.ly := rfl
@[simp] theorem State.vramWrite_lyc (s : State) (k : BitVec 1) (o : Nat) (v : Byte) : (s.vramWrite k o v).lyc = s.lyc := rfl
@[simp] theorem State.vramWrite_scy (s : State) (k : BitVec 1) (o : Nat) (v : Byte) : (s.vramWrite k o v).scy = s.scy := rfl
@[simp] theorem State.vramWrite_scx (s : State) (k : BitVec 1) (o : Nat) (v : Byte) : (s.vramWrite k o v).scx = s.scx := rfl
@[simp] theorem State.vramWrite_wy (s : State) (k : BitVec 1) (o : Nat) (v : Byte) : (s.vramWrite k o v).wy = s.wy := rfl
@[simp] theorem State.vramWrite_wx (s : State) (k : BitVec 1) (o : Nat) (v : Byte) : (s.vramWrite k o v).wx = s.wx := rfl
@[simp] theorem State.vramWrite_bgp (s : State) (k : BitVec 1) (o : Nat) (v : Byte) : (s.vramWrite k o v).bgp = s.bgp := rfl
@[simp] theorem State.vramWrite_obp0 (s : State) (k : BitVec 1) (o : Nat) (v : Byte) : (s.vramWrite k o v).obp0 = s.obp0 := rfl
@[simp] theorem State.vramWrite_obp1 (s : State) (k : BitVec 1) (o : Nat) (v : Byte) : (s.vramWrite k o v).obp1 = s.obp1 := rfl
@[simp] theorem State.vramWrite_vbk (s : State) (k : BitVec 1) (o : Nat) (v : Byte) : (s.vramWrite k o v).vbk = s.vbk := rfl
@[simp] theorem State.vramWrite_bcps (s : State) (k : BitVec 1) (o : Nat) (v : Byte) : (s.vramWrite k o v).bcps = s.bcps := rfl
@[simp] theorem State.vramWrite_ocps (s : State) (k : BitVec 1) (o : Nat) (v : Byte) : (s.vramWrite k o v).ocps = s.ocps := rfl
@[simp] theorem State.vramWrite_bgPal (s : State) (k : BitVec 1) (o : Nat) (v : Byte) : (s.vramWrite k o v).bgPal = s.bgPal := rfl
@[simp] theorem State.vramWrite_objPal (s : State) (k : BitVec 1) (o : Nat) (v : Byte) : (s.vramWrite k o v).objPal = s.objPal := rfl
@[simp] theorem State.vramWrite_vram (s : State) (k : BitVec 1) (o : Nat) (v : Byte) : (s.vramWrite k o v).vram = s.vram.write (vramIndex k o) v := rfl
@[simp] theorem State.vramWrite_oam (s : State) (k : BitVec 1) (o : Nat) (v : Byte) : (s.vramWrite k o v).oam = s.oam := rfl
@[simp] theorem State.vramWrite_mode (s : State) (k : BitVec 1) (o : Nat) (v : Byte) : (s.vramWrite k o v).mode = s.mode := rfl
@[simp] theorem State.vramWrite_acc (s : State) (k : BitVec 1) (o : Nat) (v : Byte) : (s.vramWrite k o v).acc = s.acc := rfl
@[simp] theorem State.vramWrite_windowLine (s : State) (k : BitVec 1) (o : Nat) (v : Byte) : (s.vramWrite k o v).windowLine = s.windowLine := rfl
@[simp] theorem State.vramWrite_spriteList (s : State) (k : BitVec 1) (o : Nat) (v : Byte) : (s.vramWrite k o v).spriteList = s.spriteList := rfl
@[simp] theorem State.vramWrite_idxBuf (s : State) (k : BitVec 1) (o : Nat) (v : Byte) : (s.vramWrite k o v).idxBuf = s.idxBuf := rfl
@[simp] theorem State.vramWrite_prioBuf (s : State) (k : BitVec 1) (o : Nat) (v : Byte) : (s.vramWrite k o v).prioBuf = s.prioBuf := rfl
@[simp] theorem State.vramWrite_frame (s : State) (k : BitVec 1) (o : Nat) (v : Byte) : (s.vramWrite k o v).frame = s.frame := rfl
@[simp] theorem State.vramWrite_pending (s : State) (k : BitVec 1) (o : Nat) (v : Byte) : (s.vramWrite k o v).pending = s.pending := rfl
@[simp] theorem State.vramWrite_hookWrites (s : State) (k : BitVec 1) (o : Nat) (v : Byte) : (s.vramWrite k o v).hookWrites = s.hookWrites := rfl
@[simp] theorem State.vramWrite_events (s : State) (k : BitVec 1) (o : Nat) (v : Byte) : (s.vramWrite k o v).events = s.events := rfl
@[simp] theorem State.vramWrite_reads (s : State) (k : BitVec 1) (o : Nat) (v : Byte) : (s.vramWrite k o v).reads = s.reads := rfl

/-! ### `State.oamWrite` -/

@[simp] theorem State.oamWrite_cfg (s : State) (i : Nat) (v : Byte) : (s.oamWrite i v).cfg = s.cfg := rfl
@[simp] theorem State.oamWrite_lcdc (s : State) (i : Nat) (v : Byte) : (s.oamWrite i v).lcdc = s.lcdc := rfl
@[simp] theorem State.oamWrite_statHi (s : State) (i : Nat) (v : Byte) : (s.oamWrite i v).statHi = s.statHi := rfl
@[simp] theorem State.oamWrite_coincidence (s : State) (i : Nat) (v : Byte) : (s.oamWrite i v).coincidence = s.coincidence := rfl
@[simp] theorem State.oamWrite_ly (s : State) (i : Nat) (v : Byte) : (s.oamWrite i v).ly = s.ly := rfl
@[simp] theorem State.oamWrite_lyc (s : State) (i : Nat) (v : Byte) : (s.oamWrite i v).lyc = s.lyc := rfl
@[simp] theorem State.oamWrite_scy (s : State) (i : Nat) (v : Byte) : (s.oamWrite i v).scy = s.scy := rfl
@[simp] theorem State.oamWrite_scx (s : State) (i : Nat) (v : Byte) : (s.oamWrite i v).scx = s.scx := rfl
@[simp] theorem State.oamWrite_wy (s : State) (i : Nat) (v : Byte) : (s.oamWrite i v).wy = s.wy := rfl
@[simp] theorem State.oamWrite_wx (s : State) (i : Nat) (v : Byte) : (s.oamWrite i v).wx = s.wx := rfl
@[simp] theorem State.oamWrite_bgp (s : State) (i : Nat) (v : Byte) : (s.oamWrite i v).bgp = s.bgp := rfl
@[simp] theorem State.oamWrite_obp0 (s : State) (i : Nat) (v : Byte) : (s.oamWrite i v).obp0 = s.obp0 := rfl
@[simp] theorem State.oamWrite_obp1 (s : State) (i : Nat) (v : Byte) : (s.oamWrite i v).obp1 = s.obp1 := rfl
@[simp] theorem State.oamWrite_vbk (s : State) (i : Nat) (v : Byte) : (s.oamWrite i v).vbk = s.vbk := rfl
@[simp] theorem State.oamWrite_bcps (s : State) (i : Nat) (v : Byte) : (s.oamWrite i v).bcps = s.bcps := rfl
@[simp] theorem State.oamWrite_ocps (s : State) (i : Nat) (v : Byte) : (s.oamWrite i v).ocps = s.ocps := rfl
@[simp] theorem State.oamWrite_bgPal (s : State) (i : Nat) (v : Byte) : (s.oamWrite i v).bgPal = s.bgPal := rfl
@[simp] theorem State.oamWrite_objPal (s : State) (i : Nat) (v : Byte) : (s.oamWrite i v).objPal = s.objPal := rfl
@[simp] theorem State.oamWrite_vram (s : State) (i : Nat) (v : Byte) : (s.oamWrite i v).vram = s.vram := rfl
@[simp] theorem State.oamWrite_oam (s : State) (i : Nat) (v : Byte) : (s.oamWrite i v).oam = s.oam.write (i % 160) v := rfl
@[simp] theorem State.oamWrite_mode (s : State) (i : Nat) (v : Byte) : (s.oamWrite i v).mode = s.mode := rfl
@[simp] theorem State.oamWrite_acc (s : State) (i : Nat) (v : Byte) : (s.oamWrite i v).acc = s.acc := rfl
@[simp] theorem State.oamWrite_windowLine (s : State) (i : Nat) (v : Byte) : (s.oamWrite i v).windowLine = s.windowLine := rfl
@[simp] theorem State.oamWrite_spriteList (s : State) (i : Nat) (v : Byte) : (s.oamWrite i v).spriteList = s.spriteList := rfl
@[simp] theorem State.oamWrite_idxBuf (s : State) (i : Nat) (v : Byte) : (s.oamWrite i v).idxBuf = s.idxBuf := rfl
@[simp] theorem State.oamWrite_prioBuf (s : State) (i : Nat) (v : Byte) : (s.oamWrite i v).prioBuf = s.prioBuf := rfl
@[simp] theorem State.oamWrite_frame (s : State) (i : Nat) (v : Byte) : (s.oamWrite i v).frame = s.frame := rfl
@[simp] theorem State.oamWrite_pending (s : State) (i : Nat) (v : Byte) : (s.oamWrite i v).pending = s.pending := rfl
@[simp] theorem State.oamWrite_hookWrites (s : State) (i : Nat) (v : Byte) : (s.oamWrite i v).hookWrites = s.hookWrites := rfl
@[simp] theorem State.oamWrite_events (s : State) (i : Nat) (v : Byte) : (s.oamWrite i v).events = s.events := rfl
@[simp] theorem State.oamWrite_reads (s : State) (i : Nat) (v : Byte) : (s.oamWrite i v).reads = s.reads := rfl

/-! ### `State.frameWriteRow` -/

@[simp] theorem State.frameWriteRow_cfg (s : State) (r : Byte) (row : FrameRow) : (s.frameWriteRow r row).cfg = s.cfg := rfl
@[simp] theorem State.frameWriteRow_lcdc (s : State) (r : Byte) (row : FrameRow) : (s.frameWriteRow r row).lcdc = s.lcdc := rfl
@[simp] theorem State.frameWriteRow_statHi (s : State) (r : Byte) (row : FrameRow) : (s.frameWriteRow r row).statHi = s.statHi := rfl
@[simp] theorem State.frameWriteRow_coincidence (s : State) (r : Byte) (row : FrameRow) : (s.frameWriteRow r row).coincidence = s.coincidence := rfl
@[simp] theorem State.frameWriteRow_ly (s : State) (r : Byte) (row : FrameRow) : (s.frameWriteRow r row).ly = s.ly := rfl
@[simp] theorem State.frameWriteRow_lyc (s : State) (r : Byte) (row : FrameRow) : (s.frameWriteRow r row).lyc = s.lyc := rfl
@[simp] theorem State.frameWriteRow_scy (s : State) (r : Byte) (row : FrameRow) : (s.frameWriteRow r row).scy = s.scy := rfl
@[simp] theorem State.frameWriteRow_scx (s : State) (r : Byte) (row : FrameRow) : (s.frameWriteRow r row).scx = s.scx := rfl
@[simp] theorem State.frameWriteRow_wy (s : State) (r : Byte) (row : FrameRow) : (s.frameWriteRow r row).wy = s.wy := rfl
@[simp] theorem State.frameWriteRow_wx (s : State) (r : Byte) (row : FrameRow) : (s.frameWriteRow r row).wx = s.wx := rfl
@[simp] theorem State.frameWriteRow_bgp (s : State) (r : Byte) (row : FrameRow) : (s.frameWriteRow r row).bgp = s.bgp := rfl
@[simp] theorem State.frameWriteRow_obp0 (s : State) (r : Byte) (row : FrameRow) : (s.frameWriteRow r row).obp0 = s.obp0 := rfl
@[simp] theorem State.frameWriteRow_obp1 (s : State) (r : Byte) (row : FrameRow) : (s.frameWriteRow r row).obp1 = s.obp1 := rfl
@[simp] theorem State.frameWriteRow_vbk (s : State) (r : Byte) (row : FrameRow) : (s.frameWriteRow r row).vbk = s.vbk := rfl
@[simp] theorem State.frameWriteRow_bcps (s : State) (r : Byte) (row : FrameRow) : (s.frameWriteRow r row).bcps = s.bcps := rfl
@[simp] theorem State.frameWriteRow_ocps (s : State) (r : Byte) (row : FrameRow) : (s.frameWriteRow r row).ocps = s.ocps := rfl
@[simp] theorem State.frameWriteRow_bgPal (s : State) (r : Byte) (row : FrameRow) : (s.frameWriteRow r row).bgPal = s.bgPal := rfl
@[simp] theorem State.frameWriteRow_objPal (s : State) (r : Byte) (row : FrameRow) : (s.frameWriteRow r row).objPal = s.objPal := rfl
@[simp] theorem State.frameWriteRow_vram (s : State) (r : Byte) (row : FrameRow) : (s.frameWriteRow r row).vram = s.vram := rfl
@[simp] theorem State.frameWriteRow_oam (s : State) (r : Byte) (row : FrameRow) : (s.frameWriteRow r row).oam = s.oam := rfl
@[simp] theorem State.frameWriteRow_mode (s : State) (r : Byte) (row : FrameRow) : (s.frameWriteRow r row).mode = s.mode := rfl
@[simp] theorem State.frameWriteRow_acc (s : State) (r : Byte) (row : FrameRow) : (s.frameWriteRow r row).acc = s.acc := rfl
@[simp] theorem State.frameWriteRow_windowLine (s : State) (r : Byte) (row : FrameRow) : (s.frameWriteRow r row).windowLine = s.windowLine := rfl
@[simp] theorem State.frameWriteRow_spriteList (s : State) (r : Byte) (row : FrameRow) : (s.frameWriteRow r row).spriteList = s.spriteList := rfl
@[simp] theorem State.frameWriteRow_idxBuf (s : State) (r : Byte) (row : FrameRow) : (s.frameWriteRow r row).idxBuf = s.idxBuf := rfl
@[simp] theorem State.frameWriteRow_prioBuf (s : State) (r : Byte) (row : FrameRow) : (s.frameWriteRow r row).prioBuf = s.prioBuf := rfl
@[simp] theorem State.frameWriteRow_frame (s : State) (r : Byte) (row : FrameRow) : (s.frameWriteRow r row).frame = s.frame.set (r.toNat % rows) row (Nat.mod_lt _ (by decide)) := rfl
@[simp] theorem State.frameWriteRow_pending (s : State) (r : Byte) (row : FrameRow) : (s.frameWriteRow r row).pending = s.pending := rfl
@[simp] theorem State.frameWriteRow_hookWrites (s : State) (r : Byte) (row : FrameRow) : (s.frameWriteRow r row).hookWrites = s.hookWrites := rfl
@[simp] theorem State.frameWriteRow_events (s : State) (r : Byte) (row : FrameRow) : (s.frameWriteRow r row).events = s.events := rfl
@[simp] theorem State.frameWriteRow_reads (s : State) (r : Byte) (row : FrameRow) : (s.frameWriteRow r row).reads = s.reads := rfl

/-! ### `State.oamSearch` -/

@[simp] theorem State.oamSearch_cfg (s : State) : s.oamSearch.cfg = s.cfg := rfl
@[simp] theorem State.oamSearch_lcdc (s : State) : s.oamSearch.lcdc = s.lcdc := rfl
@[simp] theorem State.oamSearch_statHi (s : State) : s.oamSearch.statHi = s.statHi := rfl
@[simp] theorem State.oamSearch_coincidence (s : State) : s.oamSearch.coincidence = s.coincidence := rfl
@[simp] theorem State.oamSearch_ly (s : State) : s.oamSearch.ly = s.ly := rfl
@[simp] theorem State.oamSearch_lyc (s : State) : s.oamSearch.lyc = s.lyc := rfl
@[simp] theorem State.oamSearch_scy (s : State) : s.oamSearch.scy = s.scy := rfl
@[simp] theorem State.oamSearch_scx (s : State) : s.oamSearch.scx = s.scx := rfl
@[simp] theorem State.oamSearch_wy (s : State) : s.oamSearch.wy = s.wy := rfl
@[simp] theorem State.oamSearch_wx (s : State) : s.oamSearch.wx = s.wx := rfl
@[simp] theorem State.oamSearch_bgp (s : State) : s.oamSearch.bgp = s.bgp := rfl
@[simp] theorem State.oamSearch_obp0 (s : State) : s.oamSearch.obp0 = s.obp0 := rfl
@[simp] theorem State.oamSearch_obp1 (s : State) : s.oamSearch.obp1 = s.obp1 := rfl
@[simp] theorem State.oamSearch_vbk (s : State) : s.oamSearch.vbk = s.vbk := rfl
@[simp] theorem State.oamSearch_bcps (s : State) : s.oamSearch.bcps = s.bcps := rfl
@[simp] theorem State.oamSearch_ocps (s : State) : s.oamSearch.ocps = s.ocps := rfl
@[simp] theorem State.oamSearch_bgPal (s : State) : s.oamSearch.bgPal = s.bgPal := rfl
@[simp] theorem State.oamSearch_objPal (s : State) : s.oamSearch.objPal = s.objPal := rfl
@[simp] theorem State.oamSearch_vram (s : State) : s.oamSearch.vram = s.vram := rfl
@[simp] theorem State.oamSearch_oam (s : State) : s.oamSearch.oam = s.oam := rfl
@[simp] theorem State.oamSearch_mode (s : State) : s.oamSearch.mode = s.mode := rfl
@[simp] theorem State.oamSearch_acc (s : State) : s.oamSearch.acc = s.acc := rfl
@[simp] theorem State.oamSearch_windowLine (s : State) : s.oamSearch.windowLine = s.windowLine := rfl
@[simp] theorem State.oamSearch_spriteList (s : State) : s.oamSearch.spriteList = ((List.finRange 40).filter s.spriteVisible).take 10 := rfl
@[simp] theorem State.oamSearch_idxBuf (s : State) : s.oamSearch.idxBuf = s.idxBuf := rfl
@[simp] theorem State.oamSearch_prioBuf (s : State) : s.oamSearch.prioBuf = s.prioBuf := rfl
@[simp] theorem State.oamSearch_frame (s : State) : s.oamSearch.frame = s.frame := rfl
@[simp] theorem State.oamSearch_pending (s : State) : s.oamSearch.pending = s.pending := rfl
@[simp] theorem State.oamSearch_hookWrites (s : State) : s.oamSearch.hookWrites = s.hookWrites := rfl
@[simp] theorem State.oamSearch_events (s : State) : s.oamSearch.events = s.events := rfl
@[simp] theorem State.oamSearch_reads (s : State) : s.oamSearch.reads = s.reads := rfl

end Sys2Proof.Machine
end

