-- ==== Sys2Proof/Laws/Ops.lean ====
section
/-! SUPPORT. One lemma per shared operation that says everything it does, as an update of the state. -/

namespace Sys2Proof.Machine

/-! ### Event requests and the coincidence check -/

@[simp] theorem eventIf_true (e : Event) : eventIf true e = [e] := rfl

@[simp] theorem eventIf_false (e : Event) : eventIf false e = [] := rfl

theorem State.requestStatIf_eq (s : State) (b : Bool) (src : StatSource) :
    s.requestStatIf b src = { s with events := s.events ++ eventIf b (.irqStat src) } := by
  cases b <;> simp [State.requestStatIf, State.emit]

theorem State.requestStat_eq (s : State) (src : StatSource) :
    s.requestStat src = { s with events := s.events ++ eventIf (s.statEnable src) (.irqStat src) } :=
  s.requestStatIf_eq _ src

/-- The enable of the LYC source is STAT bit 6. -/
theorem State.statEnable_lyc (s : State) : s.statEnable .lyc = s.stat[6] := by
  simp only [State.statEnable, State.stat, ← BitVec.getLsbD_eq_getElem, BitVec.getLsbD_append]
  rfl

/-- The enable of the HBlank source is STAT bit 3. -/
theorem State.statEnable_hblank (s : State) : s.statEnable .hblank = s.stat[3] := by
  simp only [State.statEnable, State.stat, ← BitVec.getLsbD_eq_getElem, BitVec.getLsbD_append]
  rfl

/-- The enable of the VBlank source is STAT bit 4. -/
theorem State.statEnable_vblank (s : State) : s.statEnable .vblank = s.stat[4] := by
  simp only [State.statEnable, State.stat, ← BitVec.getLsbD_eq_getElem, BitVec.getLsbD_append]
  rfl

/-- The enable of the OAM source is STAT bit 5. -/
theorem State.statEnable_oam (s : State) : s.statEnable .oam = s.stat[5] := by
  simp only [State.statEnable, State.stat, ← BitVec.getLsbD_eq_getElem, BitVec.getLsbD_append]
  rfl

/-- STAT as read, in numbers (R277). -/
theorem State.stat_toNat (s : State) :
    s.stat.toNat = s.statHi.toNat * 8 + s.coincidence.toNat * 4 + modeNumber s.mode := by
  simp only [State.stat, BitVec.toNat_append, BitVec.toNat_ofBool, Nat.shiftLeft_eq]
  have hm : (modeBits s.mode).toNat = modeNumber s.mode := by cases s.mode <;> rfl
  have hlt : modeNumber s.mode < 2 ^ 2 := by cases s.mode <;> decide
  have hc : s.coincidence.toNat < 2 ^ 1 := by cases s.coincidence <;> decide
  rw [hm, ← Nat.shiftLeft_eq, ← Nat.shiftLeft_eq, ← Nat.shiftLeft_add_eq_or_of_lt hc,
    ← Nat.shiftLeft_add_eq_or_of_lt hlt, Nat.shiftLeft_eq, Nat.shiftLeft_eq]
  omega

/-- What checkLYC does, in terms of the stored enables. -/
theorem State.checkLyc_eq (s : State) : s.checkLyc = { s with
    coincidence := s.ly == s.lyc
    events := s.events ++ eventIf ((s.ly == s.lyc) && s.statEnable .lyc) (.irqStat .lyc) } := by
  rw [State.checkLyc, State.requestStatIf_eq]

/-! ### The hook -/

/-- The writes of one hook call change VRAM only, through the bus window. -/
theorem State.applyHookWrites_eq (s : State) (ws : List HookWrite) :
    s.applyHookWrites ws =
      { s with vram := ws.foldl (fun m w => m.write (vramIndex s.busBank w.1.toNat) w.2) s.vram } := by
  unfold State.applyHookWrites
  induction ws generalizing s with
  | nil => rfl
  | cons w ws ih => simp only [List.foldl_cons]; rw [ih]; rfl

/-- The hook call emits its event, takes the next list of hook writes and makes them. -/
theorem State.callHdmaHook_eq (s : State) : s.callHdmaHook = { s with
    vram := (s.hookWrites.headD []).foldl (fun m w => m.write (vramIndex s.busBank w.1.toNat) w.2) s.vram
    hookWrites := s.hookWrites.tail
    events := s.events ++ [.hdmaHblank] } := by
  unfold State.callHdmaHook
  simp only [State.emit_hookWrites]
  cases h : s.hookWrites with
  | nil => simp [State.emit, h]
  | cons ws rest => simp only [State.applyHookWrites_eq]; rfl

/-- An offset of the bus window is inside a bank. -/
theorem vramIndex_window (k : BitVec 1) (off : BitVec 13) : vramIndex k off.toNat = k.toNat * 0x2000 + off.toNat := by
  have := off.isLt
  unfold vramIndex
  omega

theorem State.busBank_toNat (s : State) : s.busBank.toNat = if s.cfg.colorMode then s.vbk.toNat else 0 := by
  unfold State.busBank
  split <;> rfl

/-- The writes of a hook call leave every address they do not name. -/
theorem hookWrites_read_other (f : HookWrite → Nat) (ws : List HookWrite) (m : Memory) {a : Nat}
    (h : ∀ w ∈ ws, a ≠ f w) : (ws.foldl (fun m w => m.write (f w) w.2) m).read a = m.read a := by
  induction ws generalizing m with
  | nil => rfl
  | cons w ws ih =>
    rw [List.foldl_cons, ih _ (fun x hx => h x (by simp [hx])), Memory.read_write_other _ _ (h w (by simp))]

/-! ### Memory operations keep the memories canonical -/

theorem State.vramWrite_memoryOk {s : State} (h : s.MemoryOk) (k : BitVec 1) (o : Nat) (v : Byte) :
    (s.vramWrite k o v).MemoryOk :=
  ⟨Memory.write_wf h.1 _ v, h.2.1, Memory.write_bound h.2.2.1 (vramIndex_lt k o), h.2.2.2⟩

theorem State.oamWrite_memoryOk {s : State} (h : s.MemoryOk) (i : Nat) (v : Byte) : (s.oamWrite i v).MemoryOk :=
  ⟨h.1, Memory.write_wf h.2.1 _ v, h.2.2.1, Memory.write_bound h.2.2.2 (Nat.mod_lt i (by decide))⟩

/-- The writes of a hook call keep a VRAM in canonical form and inside its space. -/
theorem hookWrites_wf (k : BitVec 1) (ws : List HookWrite) {m : Memory} (h : m.wf ∧ ∀ c ∈ m, c.1 < 0x4000) :
    (ws.foldl (fun m w => m.write (vramIndex k w.1.toNat) w.2) m).wf ∧
      ∀ c ∈ ws.foldl (fun m w => m.write (vramIndex k w.1.toNat) w.2) m, c.1 < 0x4000 := by
  induction ws generalizing m with
  | nil => exact h
  | cons w ws ih => exact ih ⟨Memory.write_wf h.1 _ _, Memory.write_bound h.2 (vramIndex_lt _ _)⟩

/-- The memory of the reset state is in canonical form. -/
theorem State.reset_memoryOk : State.reset.MemoryOk :=
  ⟨Memory.wf_nil, Memory.wf_nil, by simp [State.reset], by simp [State.reset]⟩

end Sys2Proof.Machine
end

