-- ==== Sys2Proof/Laws/Compositor.lean ====
section
/-! SUPPORT. What a render does: which fields it writes, and each column of what it leaves. -/

namespace Sys2Proof.Machine

/-- A render writes the Frame Store, the transient buffers and the window-line counter, nothing else. -/
theorem State.renderLine_writes (s : State) (ly : Byte) : s.renderLine ly = { s with
    frame := (s.renderLine ly).frame
    idxBuf := (s.renderLine ly).idxBuf
    prioBuf := (s.renderLine ly).prioBuf
    windowLine := (s.renderLine ly).windowLine } := by
  unfold State.renderLine
  split <;> rfl

/-- A render with the display disabled (R193). -/
theorem State.renderLine_off {s : State} (h : s.displayOn = false) (ly : Byte) :
    s.renderLine ly = s.frameWriteRow ly (Vector.replicate columns s.cfg.blankColor) := by
  simp [State.renderLine, h, State.blankLine]

/-- A render with the display enabled (R192). -/
theorem State.renderLine_on {s : State} (h : s.displayOn = true) (ly : Byte) : s.renderLine ly = s.drawLine ly := by
  simp [State.renderLine, h]

/-- The row written, read back. -/
theorem frameWriteRow_get (s : State) {ly : Byte} (h : ly.toNat < rows) (row : FrameRow) :
    (s.frameWriteRow ly row).frame.get ⟨ly.toNat, h⟩ = row := by
  simp [State.frameWriteRow, Vector.get_eq_getElem, Nat.mod_eq_of_lt h]

/-- Every other row is as before. -/
theorem frameWriteRow_get_other (s : State) {ly : Byte} (h : ly.toNat < rows) (row : FrameRow) {r : Fin rows}
    (hr : r.val ≠ ly.toNat) : (s.frameWriteRow ly row).frame.get r = s.frame.get r := by
  simp only [State.frameWriteRow, Vector.get_eq_getElem, Nat.mod_eq_of_lt h]
  exact Vector.getElem_set_ne _ _ (fun e => hr e.symm)

/-- The colour-index buffer after a drawn line, column by column. -/
theorem drawLine_idxBuf_get (s : State) (ly : Byte) (col : Fin columns) :
    (s.drawLine ly).idxBuf.get col = (s.basePixel ly col.val).idx := by
  simp [State.drawLine, State.baseLine, Vector.get_eq_getElem]

/-- The priority buffer after a drawn line, column by column. -/
theorem drawLine_prioBuf_get (s : State) (ly : Byte) (col : Fin columns) :
    (s.drawLine ly).prioBuf.get col = (s.basePixel ly col.val).prio := by
  simp [State.drawLine, State.baseLine, Vector.get_eq_getElem]

/-- The row of a drawn line, column by column. -/
theorem drawLine_frame_get (s : State) {ly : Byte} (h : ly.toNat < rows) (col : Fin columns) :
    ((s.drawLine ly).frame.get ⟨ly.toNat, h⟩).get col =
      s.finalColor ly col.val (s.basePixel ly col.val) := by
  have := frameWriteRow_get { s with
      idxBuf := Vector.ofFn fun col : Fin columns => (s.baseLine ly)[col].idx
      prioBuf := Vector.ofFn fun col : Fin columns => (s.baseLine ly)[col].prio
      windowLine := if s.windowDraws ly then s.windowLine + 1 else s.windowLine } h
    (Vector.ofFn fun col : Fin columns => s.finalColor ly col.val (s.baseLine ly)[col])
  unfold State.drawLine
  rw [this]
  simp [State.baseLine, Vector.get_eq_getElem]

/-- The window-line counter after a drawn line (R211). -/
theorem drawLine_windowLine (s : State) (ly : Byte) :
    (s.drawLine ly).windowLine = if s.windowDraws ly then s.windowLine + 1 else s.windowLine := rfl

/-- A render leaves the other rows of the Frame Store. -/
theorem State.renderLine_frame_other (s : State) {ly : Byte} (h : ly.toNat < rows) {r : Fin rows}
    (hr : r.val ≠ ly.toNat) : (s.renderLine ly).frame.get r = s.frame.get r := by
  unfold State.renderLine
  split
  · exact frameWriteRow_get_other _ h _ hr
  · exact frameWriteRow_get_other _ h _ hr

/-- A render reads nothing of the mode: it commutes with an update of it. -/
theorem State.renderLine_mode (s : State) (m : Mode) (ly : Byte) :
    ({ s with mode := m }).renderLine ly = { s.renderLine ly with mode := m } := by
  unfold State.renderLine
  change (if s.displayOn then _ else _) = _
  split <;> rfl

/-- The window is drawn exactly under the conditions of R192, R206 and R207. -/
theorem windowDraws_iff (s : State) (ly : Byte) : s.windowDraws ly = true ↔ WindowShows s ly := by
  have hx : s.windowX = (s.wx.toNat : Int) - 7 := rfl
  simp only [State.windowDraws, State.windowOn, State.bgOn, Bool.and_eq_true, decide_eq_true_eq, WindowShows]
  constructor
  · rintro ⟨⟨⟨⟨h5, h0⟩, hy⟩, h7⟩, h9⟩
    exact ⟨h5, h0, hy, by omega, by omega⟩
  · rintro ⟨h5, h0, hy, h7, h9⟩
    exact ⟨⟨⟨⟨h5, h0⟩, hy⟩, by omega⟩, by omega⟩

/-! ### The tile fetcher in numbers -/

/-- A colour index in numbers (R202). -/
theorem planeIndex_toNat (lo hi : Byte) (b : Nat) : (planeIndex lo hi b).toNat = planeNumber lo hi b := by
  unfold planeIndex planeNumber
  cases hi.getLsbD b <;> cases lo.getLsbD b <;> rfl

/-- A tile's data lies inside a bank, from the base of its addressing mode (R200). -/
theorem tileBase_bounds (u : Bool) (t : Byte) :
    tileBase u t + 15 < 0x2000 ∧
      (tileBase u t : Int) = if u then (t.toNat * 16 : Int) else 0x1000 + t.toInt * 16 := by
  unfold tileBase
  have := t.isLt
  have h1 : t.toInt < 128 := by have := @BitVec.toInt_lt 8 t; simpa using this
  have h2 : -128 ≤ t.toInt := by have := @BitVec.le_toInt 8 t; simpa using this
  cases u <;> simp <;> omega

/-- A read of an offset inside a bank, at its flat index (R41). -/
theorem vramRead_of_lt (s : State) {o : Nat} (h : o < 0x2000) (k : BitVec 1) :
    s.vramRead k o = s.vram.read (k.toNat * 0x2000 + o) := by
  unfold State.vramRead vramIndex
  rw [Nat.mod_eq_of_lt h]

/-- A map offset in numbers (R198). -/
theorem mapOffset_def (sel : Bool) (px py : BitVec 8) :
    mapOffset sel px py = (if sel then 0x1C00 else 0x1800) + py.toNat / 8 * 32 + px.toNat / 8 := rfl

/-- The tile fetcher reads the plane point (R196 to R202). -/
theorem fetchTilePixel_eq (s : State) (sel : Bool) (px py : BitVec 8) :
    (s.fetchTilePixel sel px py).ci.toNat = (planePoint s sel px.toNat py.toNat).1 ∧
    (s.fetchTilePixel sel px py).prio = (planePoint s sel px.toNat py.toNat).2[7] ∧
    (s.fetchTilePixel sel px py).pal.toNat = (planePoint s sel px.toNat py.toNat).2.toNat % 8 := by
  have hx := px.isLt; have hy := py.isLt
  have ho : mapOffset sel px py < 0x2000 := by rw [mapOffset_def]; split <;> omega
  have hattr : s.mapAttr (mapOffset sel px py) = (planePoint s sel px.toNat py.toNat).2 := by
    unfold State.mapAttr planePoint
    simp only [← mapOffset_def]
    split
    · rw [vramRead_of_lt s ho]; rfl
    · rfl
  have htile : s.vramRead 0 (mapOffset sel px py) = s.vram.read (mapOffset sel px py) := by
    rw [vramRead_of_lt s ho]; simp
  have core : ∀ tile attr : Byte,
      (let row := if attr[6] then 7 - py.toNat % 8 else py.toNat % 8
       let col := if attr[5] then 7 - px.toNat % 8 else px.toNat % 8
       planeNumber (s.vramRead (attr.extractLsb' 3 1) (tileBase s.tileUnsigned tile + 2 * row))
        (s.vramRead (attr.extractLsb' 3 1) (tileBase s.tileUnsigned tile + 2 * row + 1)) (7 - col)) =
      (let row := if attr[6] then 7 - py.toNat % 8 else py.toNat % 8
       let col := if attr[5] then 7 - px.toNat % 8 else px.toNat % 8
       let base : Int := if s.lcdc[4] then tile.toNat * 16 else 0x1000 + tile.toInt * 16
       let lo := (attr[3]).toNat * 0x2000 + base.toNat + 2 * row
       planeNumber (s.vram.read lo) (s.vram.read (lo + 1)) (7 - col)) := by
    intro tile attr
    obtain ⟨hlt, hb⟩ := tileBase_bounds s.tileUnsigned tile
    have hbank : (attr.extractLsb' 3 1).toNat = attr[3].toNat := by
      rw [BitVec.extractLsb'_toNat, ← BitVec.getLsbD_eq_getElem, BitVec.getLsbD,
        Nat.testBit_eq_decide_div_mod_eq, Nat.shiftRight_eq_div_pow]
      have h : attr.toNat / 2^3 % 2 = 0 ∨ attr.toNat / 2^3 % 2 = 1 := by omega
      norm_num at h ⊢
      rcases h with h | h <;> simp [h]
    have hbase : ((if s.lcdc[4] = true then (tile.toNat * 16 : Int) else 0x1000 + tile.toInt * 16)).toNat =
        tileBase s.tileUnsigned tile := by
      have : s.tileUnsigned = s.lcdc[4] := rfl
      rw [this] at hb ⊢; rw [← hb]; simp
    have hr : (if attr[6] = true then 7 - py.toNat % 8 else py.toNat % 8) ≤ 7 := by split <;> omega
    simp only [hbase, Nat.add_assoc]
    rw [vramRead_of_lt _ (by omega), vramRead_of_lt _ (by omega), hbank]
  refine ⟨?_, ?_, ?_⟩
  · unfold State.fetchTilePixel
    simp only [planeIndex_toNat, htile]
    rw [hattr]
    unfold planePoint
    simp only [← mapOffset_def]
    exact core _ _
  · show (s.mapAttr _)[7] = _
    simp only [hattr]
  · show ((s.mapAttr _).extractLsb' 0 3).toNat = _
    rw [hattr, BitVec.extractLsb'_toNat]; simp

/-- A palette table read, in numbers. -/
theorem palettesRead_eq (t : Palettes) (p : BitVec 3) (c : BitVec 2) (a b : Nat)
    (ha : p.toNat = a % 8) (hb : c.toNat = b) :
    t.read p c = (t.get (Fin.ofNat 8 a)).get (Fin.ofNat 4 b) := by
  unfold Palettes.read
  have h1 : (⟨p.toNat, p.isLt⟩ : Fin 8) = Fin.ofNat 8 a := Fin.ext ha
  have h2 : (⟨c.toNat, c.isLt⟩ : Fin 4) = Fin.ofNat 4 b := Fin.ext (by subst hb; exact (Nat.mod_eq_of_lt c.isLt).symm)
  rw [← h1, ← h2]; rfl

/-- Concatenation in numbers. -/
theorem toNat_append_add {m n : Nat} (x : BitVec m) (y : BitVec n) : (x ++ y).toNat = x.toNat * 2 ^ n + y.toNat := by
  rw [BitVec.toNat_append, ← Nat.shiftLeft_add_eq_or_of_lt y.isLt, Nat.shiftLeft_eq]

/-- A widened channel in numbers (R236). -/
theorem widen5_toNat (k : BitVec 5) : (widen5 k).toNat = widened k.toNat := by
  revert k
  decide

/-- The colour conversion in numbers (R12, R236). -/
theorem rgbColor_eq (s : State) (v : Rgb15) : s.rgbColor v = argbOf s.cfg v := by
  have hf : rgb555Formula v = BitVec.ofNat 32 (0xFF000000 + widened (v.toNat % 32) * 0x10000 +
      widened (v.toNat / 32 % 32) * 0x100 + widened (v.toNat / 1024)) := by
    have hv := v.isLt
    apply BitVec.eq_of_toNat_eq
    simp only [rgb555Formula, toNat_append_add, widen5_toNat, BitVec.extractLsb'_toNat,
      Nat.shiftRight_eq_div_pow, BitVec.toNat_ofNat, widened, Nat.reducePow, Nat.div_one]
    have hb : v.toNat / 1024 < 32 := by omega
    rw [Nat.mod_eq_of_lt hb]
    have hr : v.toNat % 32 < 32 := Nat.mod_lt _ (by decide)
    have hg : v.toNat / 32 % 32 < 32 := Nat.mod_lt _ (by decide)
    generalize v.toNat % 32 = r at *
    generalize v.toNat / 32 % 32 = g at *
    generalize v.toNat / 1024 = b at *
    omega
  unfold State.rgbColor argbOf
  cases s.cfg.colorTable.lookup v with
  | none => exact hf
  | some c => rfl

/-- A shade in numbers (R231, R232). -/
theorem shadeColor_eq (s : State) (p : Byte) (ci : BitVec 2) :
    s.shadeColor (shade p ci) = shadeOf s.cfg p ci.toNat := by
  unfold State.shadeColor shadeOf
  have h : (shade p ci).toNat = p.toNat / 4 ^ ci.toNat % 4 := by
    unfold shade
    rw [BitVec.extractLsb'_toNat, Nat.shiftRight_eq_div_pow, Nat.pow_mul]
  have h1 : (⟨(shade p ci).toNat, (shade p ci).isLt⟩ : Fin 4) = ⟨p.toNat / 4 ^ ci.toNat % 4, Nat.mod_lt _ (by decide)⟩ := Fin.ext h
  rw [← h1]; rfl

/-- What the background and window passes store for a plane point (R203 to R205, R210). -/
theorem layerPixel_eq (s : State) (sel : Bool) (px py : BitVec 8) (x y : Nat)
    (hx : px.toNat = x) (hy : py.toNat = y) :
    (s.layerPixel (s.fetchTilePixel sel px py)).idx.toNat = (planePoint s sel x y).1 ∧
    (s.layerPixel (s.fetchTilePixel sel px py)).prio = (s.cfg.colorMode && (planePoint s sel x y).2[7]) ∧
    (s.layerPixel (s.fetchTilePixel sel px py)).color = planeColor s (planePoint s sel x y) := by
  subst hx hy
  obtain ⟨h1, h2, h3⟩ := fetchTilePixel_eq s sel px py
  refine ⟨h1, by rw [← h2]; rfl, ?_⟩
  unfold State.layerPixel State.bgColor planeColor
  simp only
  split
  · rw [palettesRead_eq _ _ _ _ _ h3 h1, rgbColor_eq]
  · rw [shadeColor_eq, h1]

/-! ### One sprite in numbers -/

/-- The bytes of a record as OAM holds them (R89). -/
theorem rec_bytes (s : State) (n : Fin 40) :
    s.recY n = s.oam.read (4 * n.val) ∧ s.recX n = s.oam.read (4 * n.val + 1) ∧
      s.recTile n = s.oam.read (4 * n.val + 2) ∧ s.recAttr n = s.oam.read (4 * n.val + 3) := by
  refine ⟨?_, ?_, ?_, ?_⟩ <;> simp only [State.recY, State.recX, State.recTile, State.recAttr, State.oamRead] <;>
    congr 1 <;> omega

/-- Bit 3 of an attribute byte, as a bank number. -/
theorem extractLsb'_bit3 (b : Byte) : (b.extractLsb' 3 1).toNat = (b[3]).toNat := by
  rw [BitVec.extractLsb'_toNat, ← BitVec.getLsbD_eq_getElem, BitVec.getLsbD,
    Nat.testBit_eq_decide_div_mod_eq, Nat.shiftRight_eq_div_pow]
  have h : b.toNat / 2 ^ 3 % 2 = 0 ∨ b.toNat / 2 ^ 3 % 2 = 1 := by omega
  norm_num at h ⊢
  rcases h with h | h <;> simp [h]

/-- Bit 0 of a tile index ignored, in numbers (R220). -/
theorem and_fe_toNat (b : Byte) : (b &&& 0xFE).toNat = b.toNat / 2 * 2 := by
  revert b
  decide

/-- The object colour in numbers (R227, R228). -/
theorem objColor_eq (s : State) (attr : Byte) (ci : BitVec 2) : s.objColor attr ci =
    if s.cfg.colorMode then argbOf s.cfg ((s.objPal.get (Fin.ofNat 8 attr.toNat)).get (Fin.ofNat 4 ci.toNat))
    else shadeOf s.cfg (if attr[4] then s.obp1 else s.obp0) ci.toNat := by
  unfold State.objColor
  split
  · rw [palettesRead_eq _ _ _ attr.toNat ci.toNat (by simp) rfl, rgbColor_eq]
  · rw [shadeColor_eq]

/-- The bank and the base of a sprite's tile data, in numbers (R212, R220, R221). -/
theorem spriteTile_eq (s : State) (n : Fin 40) :
    (s.spriteBank n).toNat = (if s.cfg.colorMode then ((s.recAttr n)[3]).toNat else 0) ∧
    s.spriteTileBase n = (if s.lcdc[2] then (s.recTile n).toNat / 2 * 2 else (s.recTile n).toNat) * 16 ∧
    s.spriteTileBase n + 2 * s.spriteHeight ≤ 0x2000 := by
  have hb : s.spriteTileBase n = (if s.lcdc[2] then (s.recTile n).toNat / 2 * 2 else (s.recTile n).toNat) * 16 := by
    unfold State.spriteTileBase State.spriteHeight
    cases s.lcdc[2] <;> simp [← and_fe_toNat]
  refine ⟨?_, hb, ?_⟩
  · unfold State.spriteBank
    split
    · exact extractLsb'_bit3 _
    · rfl
  · rw [hb]
    have := (s.recTile n).isLt
    unfold State.spriteHeight
    split <;> omega

/-- The row of a sprite on a line, in numbers (R218, R219). -/
theorem spriteRow_eq (s : State) (ly : Byte) (n : Fin 40) : s.spriteRow ly n =
    if (s.recY n).toNat ≤ ly.toNat + 16 ∧ ly.toNat + 16 < (s.recY n).toNat + s.spriteHeight then
      some (if (s.recAttr n)[6] then s.spriteHeight - 1 - (ly.toNat + 16 - (s.recY n).toNat)
        else ly.toNat + 16 - (s.recY n).toNat)
    else none := by
  have e : ((ly.toNat : Int) + 16 - (s.recY n).toNat).toNat = ly.toNat + 16 - (s.recY n).toNat := by omega
  unfold State.spriteRow
  simp only [e]
  by_cases h : (s.recY n).toNat ≤ ly.toNat + 16 ∧ ly.toNat + 16 < (s.recY n).toNat + s.spriteHeight
  · rw [if_pos h, if_pos (show (0 : Int) ≤ (ly.toNat : Int) + 16 - (s.recY n).toNat ∧
      (ly.toNat : Int) + 16 - (s.recY n).toNat < s.spriteHeight by omega)]
  · rw [if_neg h, if_neg (show ¬ ((0 : Int) ≤ (ly.toNat : Int) + 16 - (s.recY n).toNat ∧
      (ly.toNat : Int) + 16 - (s.recY n).toNat < s.spriteHeight) by omega)]

/-- The colour index of a sprite at a column, in numbers (R222, R224). -/
theorem spriteIndex_eq (s : State) (ly : Byte) (n : Fin 40) (col : Nat) : s.spriteIndex ly n col =
    if (s.recY n).toNat ≤ ly.toNat + 16 ∧ ly.toNat + 16 < (s.recY n).toNat + s.spriteHeight ∧
        (s.recX n).toNat ≤ col + 8 ∧ col < (s.recX n).toNat then
      some (
        let row := if (s.recAttr n)[6] then s.spriteHeight - 1 - (ly.toNat + 16 - (s.recY n).toNat)
          else ly.toNat + 16 - (s.recY n).toNat
        let lo := (s.spriteBank n).toNat * 0x2000 + (s.spriteTileBase n + 2 * row)
        let c := col + 8 - (s.recX n).toNat
        planeIndex (s.vram.read lo) (s.vram.read (lo + 1)) (if (s.recAttr n)[5] then c else 7 - c))
    else none := by
  have e : ((col : Int) + 8 - (s.recX n).toNat).toNat = col + 8 - (s.recX n).toNat := by omega
  have hb := (spriteTile_eq s n).2.2
  unfold State.spriteIndex
  rw [spriteRow_eq]
  by_cases h1 : (s.recY n).toNat ≤ ly.toNat + 16 ∧ ly.toNat + 16 < (s.recY n).toNat + s.spriteHeight
  · rw [if_pos h1]
    simp only [e]
    by_cases h2 : (s.recX n).toNat ≤ col + 8 ∧ col < (s.recX n).toNat
    · rw [if_pos (show (0 : Int) ≤ (col : Int) + 8 - (s.recX n).toNat ∧ (col : Int) + 8 - (s.recX n).toNat ≤ 7 by
        omega), if_pos (show (s.recY n).toNat ≤ ly.toNat + 16 ∧ ly.toNat + 16 < (s.recY n).toNat + s.spriteHeight ∧
        (s.recX n).toNat ≤ col + 8 ∧ col < (s.recX n).toNat from ⟨h1.1, h1.2, h2⟩)]
      have hr : (if (s.recAttr n)[6] = true then s.spriteHeight - 1 - (ly.toNat + 16 - (s.recY n).toNat)
          else ly.toNat + 16 - (s.recY n).toNat) < s.spriteHeight := by split <;> omega
      rw [vramRead_of_lt _ (by omega), vramRead_of_lt _ (by omega)]
      simp only [Nat.add_assoc]
    · rw [if_neg (show ¬ ((0 : Int) ≤ (col : Int) + 8 - (s.recX n).toNat ∧
        (col : Int) + 8 - (s.recX n).toNat ≤ 7) by omega), if_neg (fun h => h2 h.2.2)]
  · rw [if_neg h1, if_neg (fun h => h1 ⟨h.1, h.2.1⟩)]

/-- The pixel of a sprite before the background may hide it. -/
theorem opaqueSpritePixel_eq (s : State) (ly : Byte) (n : Fin 40) (col : Nat) :
    opaqueSpritePixel s ly n col = match s.spriteIndex ly n col with
      | none => none
      | some ci => if ci = 0 then none else some (s.objColor (s.recAttr n) ci) := by
  obtain ⟨hY, hX, hT, hA⟩ := rec_bytes s n
  obtain ⟨hb, htb, -⟩ := spriteTile_eq s n
  have hh : (if s.lcdc[2] = true then 16 else 8) = s.spriteHeight := rfl
  rw [spriteIndex_eq]
  unfold opaqueSpritePixel
  dsimp only
  rw [hh, ← hY, ← hX, ← hT, ← hA, ← htb, ← hb]
  split
  · simp only [← planeIndex_toNat, Nat.add_assoc]
    rw [objColor_eq]
    generalize planeIndex _ _ _ = ci
    have h0 : ci.toNat = 0 ↔ ci = 0 := ⟨fun h => BitVec.eq_of_toNat_eq h, fun h => by rw [h]; rfl⟩
    simp only [h0]
    split
    · rfl
    · split <;> rfl
  · rfl

/-- What one sprite draws over a column: its pixel, unless the background hides it (R223 to R226). -/
theorem spritePixel_eq (s : State) (ly : Byte) (n : Fin 40) (col : Nat) (p : Pixel) :
    s.spritePixel ly col p n =
      if s.hiddenByBackground (s.recAttr n) p.idx p.prio then none else opaqueSpritePixel s ly n col := by
  rw [opaqueSpritePixel_eq]
  unfold State.spritePixel
  cases s.spriteIndex ly n col with
  | none => simp
  | some ci =>
    dsimp only
    by_cases h0 : ci = 0
    · simp [h0]
    · rw [if_neg h0, if_neg h0]

/-- hiddenByBackground as a proposition (R225, R226). -/
theorem hiddenByBackground_iff (s : State) (n : Fin 40) (i : BitVec 2) (p : Bool) :
    s.hiddenByBackground (s.recAttr n) i p = true ↔ HiddenAt s n i p := by
  rw [(rec_bytes s n).2.2.2]
  unfold State.hiddenByBackground HiddenAt
  split
  · split <;> simp
  · simp

/-! ### The sprite pass -/

/-- Drawing from the last to the first leaves what the first that draws something drew. -/
theorem foldl_reverse_getD {α β : Type} (f : α → Option β) (l : List α) (c : β) :
    l.reverse.foldl (fun line n => (f n).getD line) c = (l.findSome? f).getD c := by
  induction l generalizing c with
  | nil => rfl
  | cons a l ih =>
    rw [List.reverse_cons, List.foldl_append, ih]
    simp only [List.foldl_cons, List.foldl_nil, List.findSome?_cons]
    cases f a <;> rfl

/-- A column of the sprite pass: the first sprite in priority order that draws there, else the row (R216). -/
theorem spriteColumn_eq (s : State) (ly : Byte) (col : Nat) (p : Pixel) :
    s.spriteColumn ly col p = (s.spriteOrder.findSome? (s.spritePixel ly col p)).getD p.color :=
  foldl_reverse_getD _ _ _

/-- The priority order holds the records of the sprite list. -/
theorem mem_spriteOrder (s : State) (n : Fin 40) : n ∈ s.spriteOrder ↔ n ∈ s.spriteList := by
  unfold State.spriteOrder
  split
  · rfl
  · exact List.mem_insertionSort _

/-- The priority order of a strictly increasing list goes by priority (R214, R215). -/
theorem spriteOrder_sorted (s : State) (h : s.SpritesOk) : s.spriteOrder.Pairwise s.Outranks := by
  unfold State.spriteOrder State.Outranks
  split
  · exact h.2
  · have hp := h.2
    have key : ∀ (l : List (Fin 40)), l.Pairwise (· < ·) →
        (l.insertionSort fun m n => (s.recX m).toNat ≤ (s.recX n).toNat).Pairwise
          (fun m n => (s.recX m).toNat < (s.recX n).toNat ∨ (s.recX m).toNat = (s.recX n).toNat ∧ m < n) := by
      intro l hl
      induction l with
      | nil => simp
      | cons a l ih =>
        obtain ⟨ha, hl⟩ := List.pairwise_cons.mp hl
        rw [List.insertionSort_cons]
        have hi := ih hl
        have hmem : ∀ b ∈ l.insertionSort (fun m n => (s.recX m).toNat ≤ (s.recX n).toNat), a < b :=
          fun b hb => ha b ((List.mem_insertionSort _).mp hb)
        revert hi hmem
        generalize l.insertionSort (fun m n => (s.recX m).toNat ≤ (s.recX n).toNat) = q
        intro hi hmem
        induction q with
        | nil => simp
        | cons b q ihq =>
          obtain ⟨hb, hq⟩ := List.pairwise_cons.mp hi
          rw [List.orderedInsert_cons]
          split
          · rename_i hle
            refine List.pairwise_cons.mpr ⟨?_, hi⟩
            intro x hx
            rcases List.mem_cons.mp hx with rfl | hx'
            · have := hmem x (by simp); omega
            · have h1 := hb x hx'
              have := hmem x hx
              have := hmem b (by simp)
              omega
          · rename_i hle
            refine List.pairwise_cons.mpr ⟨?_, ihq hq (fun x hx => hmem x (by simp [hx]))⟩
            intro x hx
            rcases List.mem_orderedInsert _ |>.mp hx with rfl | hx
            · left; omega
            · exact hb x hx
    exact key _ hp

end Sys2Proof.Machine
end

