-- ==== Sys2Proof/Laws/Palette.lean ====
section
/-! SUPPORT. The palette RAM in numbers: reading and writing an entry, the merge of a byte, the index. -/

namespace Sys2Proof.Machine

theorem palOf_toNat (i : BitVec 6) : (palOf i).toNat = i.toNat / 8 := by
  rw [palOf, BitVec.extractLsb'_toNat, Nat.shiftRight_eq_div_pow]
  have := i.isLt
  omega

theorem colorOf_toNat (i : BitVec 6) : (colorOf i).toNat = i.toNat / 2 % 4 := by
  rw [colorOf, BitVec.extractLsb'_toNat, Nat.shiftRight_eq_div_pow]

/-- An odd index addresses the high byte (R252). -/
theorem isHighByte_iff (i : BitVec 6) : isHighByte i = true ↔ i.toNat % 2 = 1 := by
  rw [isHighByte, ← BitVec.getLsbD_eq_getElem, BitVec.getLsbD, Nat.testBit_zero, decide_eq_true_eq]

/-- The entry an index addresses (R252). -/
theorem palettesRead_index (t : Palettes) (i : BitVec 6) : t.read (palOf i) (colorOf i) = entryOf t i.toNat := by
  have hi := i.isLt
  have h8 : (⟨(palOf i).toNat, (palOf i).isLt⟩ : Fin 8) = Fin.ofNat 8 (i.toNat / 8) :=
    Fin.ext ((palOf_toNat i).trans (Nat.mod_eq_of_lt (by omega)).symm)
  have h4 : (⟨(colorOf i).toNat, (colorOf i).isLt⟩ : Fin 4) = Fin.ofNat 4 (i.toNat / 2) :=
    Fin.ext (colorOf_toNat i)
  rw [entryOf, ← h8, ← h4]
  rfl

/-- A write through an index replaces that entry and no other. -/
theorem entryOf_write (t : Palettes) (i : BitVec 6) (v : Rgb15) {j : Nat} (hj : j < 64) :
    entryOf (t.write (palOf i) (colorOf i) v) j = if j / 2 = i.toNat / 2 then v else entryOf t j := by
  have hi := i.isLt
  unfold entryOf Palettes.write
  simp only [Vector.get_eq_getElem, Fin.ofNat, palOf_toNat, colorOf_toNat, Vector.getElem_set]
  by_cases h1 : i.toNat / 8 = j / 8 % 8
  · simp only [if_pos h1]
    by_cases h2 : i.toNat / 2 % 4 = j / 2 % 4
    · simp only [Vector.getElem_set, if_pos h2, if_pos (show j / 2 = i.toNat / 2 by omega)]
    · simp only [Vector.getElem_set, if_neg h2, if_neg (show ¬ j / 2 = i.toNat / 2 by omega), h1]
  · simp only [if_neg h1, if_neg (show ¬ j / 2 = i.toNat / 2 by omega)]

/-- The merge of a low byte in numbers (R253). -/
theorem mergeEntry_low (v : Rgb15) (d : Byte) : (mergeEntry false v d).toNat = v.toNat / 256 * 256 + d.toNat := by
  have hv := v.isLt
  have hd := d.isLt
  show ((v.extractLsb' 8 7) ++ d : BitVec 15).toNat = _
  rw [BitVec.toNat_append, ← Nat.shiftLeft_add_eq_or_of_lt hd, BitVec.extractLsb'_toNat,
    Nat.shiftRight_eq_div_pow, Nat.shiftLeft_eq]
  omega

/-- The merge of a high byte in numbers (R254). -/
theorem mergeEntry_high (v : Rgb15) (d : Byte) :
    (mergeEntry true v d).toNat = d.toNat % 128 * 256 + v.toNat % 256 := by
  show ((d.extractLsb' 0 7) ++ (v.extractLsb' 0 8) : BitVec 15).toNat = _
  rw [BitVec.toNat_append, ← Nat.shiftLeft_add_eq_or_of_lt (v.extractLsb' 0 8).isLt, BitVec.extractLsb'_toNat,
    BitVec.extractLsb'_toNat, Nat.shiftLeft_eq]
  norm_num

/-- The byte of an entry an index addresses, in numbers (R258). -/
theorem entryByte_toNat (high : Bool) (v : Rgb15) :
    (entryByte high v).toNat = if high then v.toNat / 256 else v.toNat % 256 := by
  have hv := v.isLt
  cases high
  · simp [entryByte]
  · simp only [entryByte, if_true, BitVec.toNat_setWidth, BitVec.extractLsb'_toNat, Nat.shiftRight_eq_div_pow]
    omega

/-- The index after a data write (R255). -/
theorem palIndexAdvance_toNat (x : PalIndex) :
    x.advance.index.toNat = (if x.autoInc then (x.index.toNat + 1) % 64 else x.index.toNat) ∧
      x.advance.autoInc = x.autoInc := by
  unfold PalIndex.advance
  split <;> simp_all [BitVec.toNat_add]

end Sys2Proof.Machine
end

