-- ==== Sys2Proof/Laws/PerInstr.lean ====
section
/-! SUPPORT. A fact about every instruction as syntax, one lemma per constructor: how its port operation carries it
(spec/30_encoding.md R110, R111). -/

namespace Sys2Proof.Laws.PortForm

open Sys2Proof

/-- The format of an instruction (R110): a bus read, a bus write, a port call, or an internal transition. -/
inductive Form where
  | busRead
  | busWrite
  | port
  | seq
  deriving DecidableEq, Repr

/-- The format of a row of the table (its "format" column). -/
def form : Instr → Form
  | .readLcdc => .busRead
  | .writeLcdc _ => .busWrite
  | .readStat => .busRead
  | .writeStat _ => .busWrite
  | .readScy => .busRead
  | .writeScy _ => .busWrite
  | .readScx => .busRead
  | .writeScx _ => .busWrite
  | .readLy => .busRead
  | .writeLy _ => .busWrite
  | .readLyc => .busRead
  | .writeLyc _ => .busWrite
  | .readBase6 => .busRead
  | .writeBase6 _ => .busWrite
  | .readBgp => .busRead
  | .writeBgp _ => .busWrite
  | .readObp0 => .busRead
  | .writeObp0 _ => .busWrite
  | .readObp1 => .busRead
  | .writeObp1 _ => .busWrite
  | .readWy => .busRead
  | .writeWy _ => .busWrite
  | .readWx => .busRead
  | .writeWx _ => .busWrite
  | .readVbk => .busRead
  | .writeVbk _ => .busWrite
  | .readBcps => .busRead
  | .writeBcps _ => .busWrite
  | .readBcpd => .busRead
  | .writeBcpd _ => .busWrite
  | .readOcps => .busRead
  | .writeOcps _ => .busWrite
  | .readOcpd => .busRead
  | .writeOcpd _ => .busWrite
  | .readVram _ => .busRead
  | .writeVram _ _ => .busWrite
  | .readOam _ => .busRead
  | .writeOam _ _ => .busWrite
  | .readUnmapped _ => .busRead
  | .writeUnmapped _ _ => .busWrite
  | .advance _ => .port
  | .renderLine _ => .port
  | .t23 => .seq
  | .t30 => .seq
  | .t02 => .seq
  | .t01 => .seq
  | .t11 => .seq
  | .t12 => .seq

/-- The instruction is carried as its format says: a bus read by a word with bit 16 clear, a bus write by a word
with bit 16 set, a port call by its port, an internal transition by nothing. -/
def Statement (i : Instr) : Prop :=
  ∀ c : Config,
    match form i with
    | .busRead => ∃ w : BitVec 17, encode c i = some (.bus w 0) ∧ w[16] = false
    | .busWrite => ∃ (w : BitVec 17) (d : Byte), encode c i = some (.bus w d) ∧ w[16] = true
    | .port => (∃ d, encode c i = some (.advance d)) ∨ ∃ ly, encode c i = some (.renderLine ly)
    | .seq => encode c i = none

/-- Bit 16 of a bus word is `w` (R111). -/
theorem busWord_bit16 (w : Bool) (a : Addr) : (busWord w a)[16] = w := by
  simp only [busWord, ← BitVec.getLsbD_eq_getElem, BitVec.getLsbD_append]
  cases w <;> rfl

theorem read_form (c : Config) (t : Target) :
    ∃ w : BitVec 17, some (Target.encodeRead c t) = some (.bus w 0) ∧ w[16] = false :=
  ⟨_, rfl, busWord_bit16 false _⟩

theorem write_form (c : Config) (d : Byte) (t : Target) :
    ∃ (w : BitVec 17) (e : Byte), some (Target.encodeWrite c d t) = some (.bus w e) ∧ w[16] = true :=
  ⟨_, _, rfl, busWord_bit16 true _⟩

theorem readLcdc : Statement .readLcdc := fun c => read_form c _
theorem writeLcdc (data : Byte) : Statement (.writeLcdc data) := fun c => write_form c data _
theorem readStat : Statement .readStat := fun c => read_form c _
theorem writeStat (data : Byte) : Statement (.writeStat data) := fun c => write_form c data _
theorem readScy : Statement .readScy := fun c => read_form c _
theorem writeScy (data : Byte) : Statement (.writeScy data) := fun c => write_form c data _
theorem readScx : Statement .readScx := fun c => read_form c _
theorem writeScx (data : Byte) : Statement (.writeScx data) := fun c => write_form c data _
theorem readLy : Statement .readLy := fun c => read_form c _
theorem writeLy (data : Byte) : Statement (.writeLy data) := fun c => write_form c data _
theorem readLyc : Statement .readLyc := fun c => read_form c _
theorem writeLyc (data : Byte) : Statement (.writeLyc data) := fun c => write_form c data _
theorem readBase6 : Statement .readBase6 := fun c => read_form c _
theorem writeBase6 (data : Byte) : Statement (.writeBase6 data) := fun c => write_form c data _
theorem readBgp : Statement .readBgp := fun c => read_form c _
theorem writeBgp (data : Byte) : Statement (.writeBgp data) := fun c => write_form c data _
theorem readObp0 : Statement .readObp0 := fun c => read_form c _
theorem writeObp0 (data : Byte) : Statement (.writeObp0 data) := fun c => write_form c data _
theorem readObp1 : Statement .readObp1 := fun c => read_form c _
theorem writeObp1 (data : Byte) : Statement (.writeObp1 data) := fun c => write_form c data _
theorem readWy : Statement .readWy := fun c => read_form c _
theorem writeWy (data : Byte) : Statement (.writeWy data) := fun c => write_form c data _
theorem readWx : Statement .readWx := fun c => read_form c _
theorem writeWx (data : Byte) : Statement (.writeWx data) := fun c => write_form c data _
theorem readVbk : Statement .readVbk := fun c => read_form c _
theorem writeVbk (data : Byte) : Statement (.writeVbk data) := fun c => write_form c data _
theorem readBcps : Statement .readBcps := fun c => read_form c _
theorem writeBcps (data : Byte) : Statement (.writeBcps data) := fun c => write_form c data _
theorem readBcpd : Statement .readBcpd := fun c => read_form c _
theorem writeBcpd (data : Byte) : Statement (.writeBcpd data) := fun c => write_form c data _
theorem readOcps : Statement .readOcps := fun c => read_form c _
theorem writeOcps (data : Byte) : Statement (.writeOcps data) := fun c => write_form c data _
theorem readOcpd : Statement .readOcpd := fun c => read_form c _
theorem writeOcpd (data : Byte) : Statement (.writeOcpd data) := fun c => write_form c data _
theorem readVram (off : BitVec 13) : Statement (.readVram off) := fun c => read_form c _
theorem writeVram (off : BitVec 13) (data : Byte) : Statement (.writeVram off data) := fun c => write_form c data _
theorem readOam (index : BitVec 8) : Statement (.readOam index) := fun c => read_form c _
theorem writeOam (index : BitVec 8) (data : Byte) : Statement (.writeOam index data) := fun c => write_form c data _
theorem readUnmapped (addr : Addr) : Statement (.readUnmapped addr) := fun c => read_form c _
theorem writeUnmapped (addr : Addr) (data : Byte) : Statement (.writeUnmapped addr data) :=
  fun c => write_form c data _
theorem advance (dots : Nat) : Statement (.advance dots) := fun _ => .inl ⟨dots, rfl⟩
theorem renderLine (ly : Byte) : Statement (.renderLine ly) := fun _ => .inr ⟨ly, rfl⟩
theorem t23 : Statement .t23 := fun _ => rfl
theorem t30 : Statement .t30 := fun _ => rfl
theorem t02 : Statement .t02 := fun _ => rfl
theorem t01 : Statement .t01 := fun _ => rfl
theorem t11 : Statement .t11 := fun _ => rfl
theorem t12 : Statement .t12 := fun _ => rfl

end Sys2Proof.Laws.PortForm
end

