-- ==== Sys2Proof/Laws/Sequencer.lean ====
section
/-! SUPPORT. The transitions as updates of the state, and the loop of `advance`. -/

namespace Sys2Proof.Machine

/-! ### Durations -/

theorem duration_ge (m : Mode) : 80 ≤ duration m := by cases m <;> decide

theorem duration_pos (m : Mode) : 0 < duration m := by have := duration_ge m; omega

/-! ### OAM search -/

theorem oamSearch_length_le (s : State) : s.oamSearch.spriteList.length ≤ 10 := by
  simp [State.oamSearch]

theorem oamSearch_sorted (s : State) : s.oamSearch.spriteList.Pairwise (· < ·) :=
  ((List.pairwise_lt_finRange 40).filter _).sublist (List.take_sublist _ _)

/-- Every search leaves a list that meets the sprite-list invariant. -/
theorem oamSearch_spritesOk (s : State) : s.oamSearch.SpritesOk :=
  ⟨oamSearch_length_le s, oamSearch_sorted s⟩

/-- A search leaves the same state whatever list was there before. -/
theorem State.oamSearch_eq (s : State) :
    s.oamSearch = { s with spriteList := ((List.finRange 40).filter s.spriteVisible).take 10 } := rfl

/-- Membership in the first `k` of the elements that meet `p`. -/
theorem mem_take_filter {n k : Nat} (p : Fin n → Bool) (a : Fin n) :
    a ∈ ((List.finRange n).filter p).take k ↔
      p a = true ∧ ((List.finRange n).filter fun m => decide (m < a) && p m).length < k := by
  have gen : ∀ (l : List (Fin n)) (k : Nat), l.Pairwise (· < ·) →
      (a ∈ (l.filter p).take k ↔ a ∈ l ∧ p a = true ∧ (l.filter fun m => decide (m < a) && p m).length < k) := by
    intro l
    induction l with
    | nil => simp
    | cons b l ih =>
      intro k hl
      obtain ⟨hb, hl⟩ := List.pairwise_cons.mp hl
      by_cases hp : p b = true
      · rw [List.filter_cons_of_pos hp]
        cases k with
        | zero => simp
        | succ k =>
          rw [List.take_succ_cons, List.mem_cons, ih k hl]
          by_cases hab : a = b
          · subst hab
            have hnil : (l.filter fun m => decide (m < a) && p m) = [] := by
              rw [List.filter_eq_nil_iff]
              intro m hm
              have := hb m hm
              simp [Fin.not_lt.mpr (Fin.le_of_lt this)]
            simp [hp, hnil]
          · by_cases hm : a ∈ l
            · have := hb a hm
              rw [List.filter_cons_of_pos (by simp [hp, this])]
              simp [hab, hm]
            · simp [hab, hm]
      · rw [List.filter_cons_of_neg hp, ih k hl, List.filter_cons_of_neg (by simp [hp])]
        by_cases hab : a = b
        · subst hab; simp [hp]
        · simp [hab]
  have := gen (List.finRange n) k (List.pairwise_lt_finRange n)
  simpa using this

/-- Visibility of a record, in numbers (R155). -/
theorem spriteVisible_eq (s : State) (n : Fin 40) : s.spriteVisible n =
    (decide ((s.oam.read (4 * n.val)).toNat ≤ s.ly.toNat + 16) &&
     decide (s.ly.toNat + 16 < (s.oam.read (4 * n.val)).toNat + (if s.lcdc[2] then 16 else 8))) := by
  have hY : s.recY n = s.oam.read (4 * n.val) := by unfold State.recY State.oamRead; congr 1; omega
  unfold State.spriteVisible State.spriteHeight
  rw [hY]
  generalize s.oam.read (4 * n.val) = y
  rw [Bool.eq_iff_iff]
  simp only [Bool.and_eq_true, decide_eq_true_eq]
  split <;> constructor <;> rintro ⟨h1, h2⟩ <;> constructor <;> omega

/-- Every search leaves the list the rules R155 and R157 select. -/
theorem oamSearch_listIsSearched (s : State) : s.oamSearch.ListIsSearched := by
  refine ⟨(oamSearch_spritesOk s).1, (oamSearch_spritesOk s).2, fun n => ?_⟩
  show n ∈ ((List.finRange 40).filter s.spriteVisible).take 10 ↔ _
  rw [mem_take_filter]
  simp only [spriteVisible_eq, State.oamSearch, Bool.and_eq_true, decide_eq_true_eq, Bool.and_assoc, and_assoc]
  rfl

/-! ### Restart and transitions -/

theorem State.restart_eq (s : State) : s.restart = State.oamSearch { s with
    ly := 0
    windowLine := 0
    acc := 0
    mode := .oamSearch
    coincidence := 0 == s.lyc
    events := s.events ++ eventIf ((0 == s.lyc) && s.statEnable .lyc) (.irqStat .lyc) } := by
  rw [State.restart, State.checkLyc_eq]
  rfl

theorem State.t30_eq (s : State) : s.t30 = { s.renderLine s.ly with
    mode := .hblank
    vram := (s.hookWrites.headD []).foldl (fun m w => m.write (vramIndex s.busBank w.1.toNat) w.2) s.vram
    hookWrites := s.hookWrites.tail
    events := s.events ++ [.lineReady s.ly] ++ eventIf (s.statEnable .hblank) (.irqStat .hblank) ++ [.hdmaHblank] } := by
  have hw := s.renderLine_writes s.ly
  rw [State.t30, State.renderLine_mode, hw]
  simp only [State.requestStat_eq, State.callHdmaHook_eq]
  rfl

theorem State.t02_eq (s : State) : s.t02 = { State.oamSearch { s with ly := s.ly + 1 } with
    coincidence := s.ly + 1 == s.lyc
    mode := .oamSearch
    events := s.events ++ eventIf ((s.ly + 1 == s.lyc) && s.statEnable .lyc) (.irqStat .lyc) ++
      eventIf (s.statEnable .oam) (.irqStat .oam) } := by
  rw [State.t02, State.checkLyc_eq, State.requestStat_eq]
  rfl

theorem State.t01_eq (s : State) : s.t01 = { s with
    ly := s.ly + 1
    coincidence := s.ly + 1 == s.lyc
    mode := .vblank
    events := s.events ++ eventIf ((s.ly + 1 == s.lyc) && s.statEnable .lyc) (.irqStat .lyc) ++
      eventIf (s.statEnable .vblank) (.irqStat .vblank) ++ [.irqVblank] ++ [.frameReady] } := by
  rw [State.t01, State.checkLyc_eq, State.requestStat_eq]
  rfl

theorem State.t11_eq (s : State) : s.t11 = { s with
    ly := s.ly + 1
    coincidence := s.ly + 1 == s.lyc
    events := s.events ++ eventIf ((s.ly + 1 == s.lyc) && s.statEnable .lyc) (.irqStat .lyc) } := by
  rw [State.t11, State.checkLyc_eq]
  rfl

theorem State.t12_eq (s : State) : s.t12 = { State.oamSearch { s with ly := 0 } with
    windowLine := 0
    coincidence := 0 == s.lyc
    mode := .oamSearch
    events := s.events ++ eventIf ((0 == s.lyc) && s.statEnable .lyc) (.irqStat .lyc) ++
      eventIf (s.statEnable .oam) (.irqStat .oam) } := by
  rw [State.t12, State.checkLyc_eq, State.requestStat_eq]
  rfl

/-! ### The transition of the loop -/

/-- The transition in mode 2. -/
theorem transition_of_oamSearch {s : State} (h : s.mode = .oamSearch) : s.transition = s.t23 := by
  simp [State.transition, h]

/-- The transition in mode 3. -/
theorem transition_of_pixelTransfer {s : State} (h : s.mode = .pixelTransfer) : s.transition = s.t30 := by
  simp [State.transition, h]

/-- The transition in mode 0. -/
theorem transition_of_hblank {s : State} (h : s.mode = .hblank) :
    s.transition = if s.ly.toNat + 1 < 144 then s.t02 else s.t01 := by
  simp [State.transition, h]

/-- The transition in mode 1. -/
theorem transition_of_vblank {s : State} (h : s.mode = .vblank) :
    s.transition = if s.ly.toNat + 1 ≤ 153 then s.t11 else s.t12 := by
  simp [State.transition, h]

/-- A render reads nothing of the accumulator. -/
theorem State.renderLine_acc (s : State) (x : Nat) (ly : Byte) :
    ({ s with acc := x }).renderLine ly = { s.renderLine ly with acc := x } := by
  unfold State.renderLine
  change (if s.displayOn then _ else _) = _
  split <;> rfl

/-- A transition reads nothing of the accumulator. -/
theorem transition_setAcc (s : State) (x : Nat) :
    ({ s with acc := x }).transition = { s.transition with acc := x } := by
  have hm : s.mode = .hblank ∨ s.mode = .vblank ∨ s.mode = .oamSearch ∨ s.mode = .pixelTransfer := by
    cases s.mode <;> simp
  rcases hm with hm | hm | hm | hm
  · rw [transition_of_hblank (s := { s with acc := x }) hm, transition_of_hblank hm]
    change (if s.ly.toNat + 1 < 144 then _ else _) = _
    split
    · rw [State.t02_eq, State.t02_eq]; rfl
    · rw [State.t01_eq, State.t01_eq]; rfl
  · rw [transition_of_vblank (s := { s with acc := x }) hm, transition_of_vblank hm]
    change (if s.ly.toNat + 1 ≤ 153 then _ else _) = _
    split
    · rw [State.t11_eq, State.t11_eq]; rfl
    · rw [State.t12_eq, State.t12_eq]; rfl
  · rw [transition_of_oamSearch (s := { s with acc := x }) hm, transition_of_oamSearch hm]
    rfl
  · rw [transition_of_pixelTransfer (s := { s with acc := x }) hm, transition_of_pixelTransfer hm, State.t30_eq,
      State.t30_eq, State.renderLine_acc]
    rfl

/-- One turn: the transition, with the duration taken off the accumulator (R142). -/
theorem turn_eq (s : State) : s.turn = { s.transition with acc := s.acc - duration s.mode } := by
  rw [State.turn, transition_setAcc]

/-! ### The loop of advance -/

/-- No transition touches the accumulator. -/
@[simp] theorem transition_acc (s : State) : s.transition.acc = s.acc := by
  have hr : ∀ ly, (s.renderLine ly).acc = s.acc := fun ly => by rw [s.renderLine_writes ly]
  unfold State.transition
  split
  · rfl
  · rw [State.t30_eq]; exact hr _
  · split
    · rw [State.t02_eq]; rfl
    · rw [State.t01_eq]
  · split
    · rw [State.t11_eq]
    · rw [State.t12_eq]; rfl

@[simp] theorem turn_acc (s : State) : s.turn.acc = s.acc - duration s.mode := by
  simp [State.turn]

/-- The loop has ended: fuel does not matter. -/
theorem runTurns_done {s : State} (h : s.acc < duration s.mode) (n : Nat) : State.runTurns n s = s := by
  cases n with
  | zero => rfl
  | succ n => rw [State.runTurns, if_neg (by omega)]

/-- One turn of the loop. -/
theorem runTurns_succ {s : State} (h : duration s.mode ≤ s.acc) (n : Nat) :
    State.runTurns (n + 1) s = State.runTurns n s.turn := by
  rw [State.runTurns, if_pos h]

/-- Any fuel of at least `acc / 80` turns runs the loop to its end (R142). -/
theorem runTurns_enough {n m : Nat} {s : State} (hn : s.acc / 80 ≤ n) (hm : s.acc / 80 ≤ m) :
    State.runTurns n s = State.runTurns m s := by
  induction n generalizing m s with
  | zero =>
    have := duration_ge s.mode
    rw [runTurns_done (by omega), runTurns_done (by omega)]
  | succ n ih =>
    by_cases h : duration s.mode ≤ s.acc
    · have hd := duration_ge s.mode
      cases m with
      | zero => omega
      | succ m =>
        rw [runTurns_succ h, runTurns_succ h]
        exact ih (by rw [turn_acc]; omega) (by rw [turn_acc]; omega)
    · rw [runTurns_done (by omega), runTurns_done (by omega)]

/-- The loop ends below the duration of its mode (R144). -/
theorem runTurns_carryOk {n : Nat} {s : State} (hn : s.acc / 80 ≤ n) : (State.runTurns n s).CarryOk := by
  induction n generalizing s with
  | zero =>
    have := duration_ge s.mode
    show s.acc < duration s.mode
    omega
  | succ n ih =>
    by_cases h : duration s.mode ≤ s.acc
    · have hd := duration_ge s.mode
      rw [runTurns_succ h]
      exact ih (by rw [turn_acc]; omega)
    · rw [runTurns_done (by omega)]
      show s.acc < duration s.mode
      omega

/-- What every turn keeps, the loop keeps. -/
theorem runTurns_induction {P : State → Prop} (hstep : ∀ s, duration s.mode ≤ s.acc → P s → P s.turn) {n : Nat}
    {s : State} (h : P s) : P (State.runTurns n s) := by
  induction n generalizing s with
  | zero => exact h
  | succ n ih =>
    by_cases hd : duration s.mode ≤ s.acc
    · rw [runTurns_succ hd]; exact ih (hstep s hd h)
    · rw [runTurns_done (by omega)]; exact h

end Sys2Proof.Machine
end

