-- ==== Sys2Proof/Tests/Slice0.lean ====
section
/-! SUPPORT. Tests: ill-formed terms, words written out from the encoding tables of the spec, small vectors of
spec/95_test_vectors.md (each test names its vector), and for each statement with hypotheses a state and operands
that meet them. Every expected value comes from the spec's tables. -/

namespace Sys2Proof.Tests

open Sys2Proof Sys2Proof.Machine

/-! ### Helpers -/

/-- The next state of an outcome. -/
def after : Host.Outcome State Fault Refusal → Option State
  | .next t => some t
  | .fault _ => none
  | .refused _ => none

/-- The refusal of an outcome. -/
def refusal : Host.Outcome State Fault Refusal → Option Refusal
  | .next _ => none
  | .fault _ => none
  | .refused r => some r

/-- Instructions one after another. -/
def runAll : List Instr → State → Option State
  | [], s => some s
  | i :: l, s => (after (exec i s)).bind (runAll l)

/-- The bytes returned by instructions run one after another. -/
def readsOf (l : List Instr) (s : State) : Option (List Byte) := (runAll l s).map (·.reads)

/-- A memory from writes. -/
def mem (l : List (Nat × Byte)) : Memory := l.foldl (fun m c => m.write c.1 c.2) []

/-- `n` cells holding `v` from `base`. -/
def fill (base n : Nat) (v : Byte) : List (Nat × Byte) := (List.range n).map fun k => (base + k, v)

/-- The colours of some columns of a drawn line (`drawLine_frame_get` says these are the row's). -/
def shown (s : State) (ly : Byte) (cols : List Nat) : List Argb :=
  cols.map fun col => s.finalColor ly col (s.basePixel ly col)

/-- The colour indexes of some columns of a drawn line (`drawLine_idxBuf_get`). -/
def indexes (s : State) (ly : Byte) (cols : List Nat) : List Nat :=
  cols.map fun col => (s.basePixel ly col).idx.toNat

/-- The reset state in colour mode. -/
def colour : State := { State.reset with cfg := { Config.default with colorMode := true } }

/-- The reset state with `LYC_WRITE_RECHECK`. -/
def recheck : State := { State.reset with cfg := { Config.default with lycWriteRecheck := true } }

/-! ### Well-formedness: each check refuses an ill-formed term -/

theorem test_wf_readOam_160 : (Instr.readOam 160).wellFormed Config.default = false := by decide

theorem test_wf_writeOam_160 : (Instr.writeOam 160 0).wellFormed Config.default = false := by decide

theorem test_wf_oam_159 : (Instr.readOam 159).wellFormed Config.default = true ∧
    (Instr.writeOam 159 0).wellFormed Config.default = true := by decide

theorem test_wf_readUnmapped_in_vram : (Instr.readUnmapped 0x8000).wellFormed Config.default = false := by decide

theorem test_wf_writeUnmapped_in_registers :
    (Instr.writeUnmapped 0xFF4B 0).wellFormed Config.default = false := by decide

theorem test_wf_unmapped_outside : (Instr.readUnmapped 0xFEA0).wellFormed Config.default = true ∧
    (Instr.writeUnmapped 0xFF4C 0).wellFormed Config.default = true := by decide

/-! ### Decoding: words of the tables of spec/30_encoding.md sections 2 and 3 -/

/-- Words 0_1111_1111_0100_kkkk, k = 0 to 0xB: reads of the register window (R114). -/
theorem test_decode_register_reads :
    ([0b01111111101000000, 0b01111111101000001, 0b01111111101000010, 0b01111111101000011,
      0b01111111101000100, 0b01111111101000101, 0b01111111101000110, 0b01111111101000111,
      0b01111111101001000, 0b01111111101001001, 0b01111111101001010, 0b01111111101001011] :
        List (BitVec 17)).map (fun w => decode Config.default (.bus w 0xA5)) =
    [.readLcdc, .readStat, .readScy, .readScx, .readLy, .readLyc, .readBase6, .readBgp, .readObp0, .readObp1,
      .readWy, .readWx] := by decide

/-- The same words with bit 16 set: writes of the register window (R111, R114). -/
theorem test_decode_register_writes :
    ([0b11111111101000000, 0b11111111101000001, 0b11111111101000010, 0b11111111101000011,
      0b11111111101000100, 0b11111111101000101, 0b11111111101000110, 0b11111111101000111,
      0b11111111101001000, 0b11111111101001001, 0b11111111101001010, 0b11111111101001011] :
        List (BitVec 17)).map (fun w => decode Config.default (.bus w 0xA5)) =
    [.writeLcdc 0xA5, .writeStat 0xA5, .writeScy 0xA5, .writeScx 0xA5, .writeLy 0xA5, .writeLyc 0xA5,
      .writeBase6 0xA5, .writeBgp 0xA5, .writeObp0 0xA5, .writeObp1 0xA5, .writeWy 0xA5, .writeWx 0xA5] := by
  decide

/-- Addresses FF4Fh and FF68h to FF6Bh: the colour-mode registers (R115). -/
theorem test_decode_colour_registers :
    ([0b01111111101001111, 0b11111111101001111, 0b01111111101101000, 0b11111111101101000,
      0b01111111101101001, 0b11111111101101001, 0b01111111101101010, 0b11111111101101010,
      0b01111111101101011, 0b11111111101101011] :
        List (BitVec 17)).map (fun w => decode Config.default (.bus w 0x3C)) =
    [.readVbk, .writeVbk 0x3C, .readBcps, .writeBcps 0x3C, .readBcpd, .writeBcpd 0x3C, .readOcps, .writeOcps 0x3C,
      .readOcpd, .writeOcpd 0x3C] := by decide

/-- Bits 15..13 = 100: the VRAM window, offset in bits 12..0 (R116). -/
theorem test_decode_vram :
    ([0b01000000000000000, 0b11000000000001111, 0b01001111111111111, 0b11001101010101010] :
        List (BitVec 17)).map (fun w => decode Config.default (.bus w 0x11)) =
    [.readVram 0, .writeVram 0x000F 0x11, .readVram 0x1FFF, .writeVram 0x1AAA 0x11] := by decide

/-- Address FE00h + index, index 0 to 159 (R117). -/
theorem test_decode_oam :
    ([0b01111111000000000, 0b11111111000000001, 0b01111111010011111, 0b11111111010011111] :
        List (BitVec 17)).map (fun w => decode Config.default (.bus w 0x22)) =
    [.readOam 0, .writeOam 1 0x22, .readOam 159, .writeOam 159 0x22] := by decide

/-- Addresses just outside each window (R118, R120): 7FFFh, A000h, FDFFh, FEA0h, FF3Fh, FF4Ch, FF67h, FF6Ch. -/
theorem test_decode_unmapped :
    ([0b00111111111111111, 0b11010000000000000, 0b01111110111111111, 0b11111111010100000,
      0b01111111100111111, 0b11111111101001100, 0b01111111101100111, 0b11111111101101100] :
        List (BitVec 17)).map (fun w => decode Config.default (.bus w 0x33)) =
    [.readUnmapped 0x7FFF, .writeUnmapped 0xA000 0x33, .readUnmapped 0xFDFF, .writeUnmapped 0xFEA0 0x33,
      .readUnmapped 0xFF3F, .writeUnmapped 0xFF4C 0x33, .readUnmapped 0xFF67, .writeUnmapped 0xFF6C 0x33] := by
  decide

/-- The two ports (R112, R113). -/
theorem test_decode_ports : decode Config.default (.advance 252) = .advance 252 ∧
    decode Config.default (.renderLine 143) = .renderLine 143 := by decide

/-- The internal transitions at the values where their conditions meet (R122). -/
theorem test_decode_transitions :
    [decodeSeq .oamSearch 0, decodeSeq .pixelTransfer 143, decodeSeq .hblank 142, decodeSeq .hblank 143,
      decodeSeq .vblank 152, decodeSeq .vblank 153] = [.t23, .t30, .t02, .t01, .t11, .t12] := by decide

/-- Words as the table numbers them; a number beyond 17 bits is refused; bits above `nbits` are dropped. -/
theorem test_decodeTableWord :
    decodeTableWord 24 0x0FF41 = some .readStat ∧ decodeTableWord 24 0x1FF40 = some (.writeLcdc 0) ∧
    decodeTableWord 24 0x18000 = some (.writeVram 0 0) ∧ decodeTableWord 24 0x10000 = some (.writeUnmapped 0 0) ∧
    decodeTableWord 24 0x20000 = none ∧ decodeTableWord 16 0x1FF41 = some .readStat := by decide

/-- The word placed is the one the next step performs: `R STAT` from reset gives 0x06 (B1). -/
theorem test_withFetchWord :
    (after (step (State.reset.withFetchWord 24 0x0FF41))).map (·.reads) = some [0x06] := by decide

/-- Encoding of operations under other valid parameters. -/
theorem test_encode : encode Config.default (.writeBgp 0xFC) = some (.bus 0x1FF47 0xFC) ∧
    encode Config.default (.readOam 159) = some (.bus 0x0FE9F 0) ∧
    encode Config.default (.writeVram 0x1FFF 1) = some (.bus 0x19FFF 1) ∧ encode Config.default .t23 = none := by
  decide

/-! ### Register window (L2.4, L2.2) -/

/-- B4: `W LCDC, 0x91; R LCDC`. -/
theorem test_lcdc_read_back : readsOf [.writeLcdc 0x91, .readLcdc] State.reset = some [0x91] := by decide

/-- B15: LY 77, mode 3, `W LCDC, 0x11`. -/
theorem test_lcdc_edge_restarts :
    (runAll [.writeLcdc 0x11] { State.reset with
      lcdc := 0x91, ly := 77, mode := .pixelTransfer, acc := 5, windowLine := 9 }).map
      (fun t => (t.ly, t.mode, t.acc, t.windowLine)) = some (0, .oamSearch, 0, 0) := by decide

/-- B2: `W STAT, 0xFF; R STAT`. -/
theorem test_stat_write_keeps_low_bits : readsOf [.writeStat 0xFF, .readStat] State.reset = some [0xFE] := by
  decide

/-- B3: `ADV 80; W STAT, 0x08; R STAT`. -/
theorem test_stat_in_mode3 :
    readsOf [.advance 80, .writeStat 0x08, .readStat] State.reset = some [0x0F] := by decide

/-- B13 and its like for the plain registers: the byte written is the byte read. -/
theorem test_plain_registers_read_back :
    readsOf [.writeScy 0x12, .writeScx 0x34, .writeBgp 0xE4, .writeObp0 0xD2, .writeObp1 0x54, .writeWy 0x90,
      .writeWx 0x07, .readScy, .readScx, .readBgp, .readObp0, .readObp1, .readWy, .readWx] State.reset =
    some [0x12, 0x34, 0xE4, 0xD2, 0x54, 0x90, 0x07] := by decide

/-- B14: `ADV 456; R LY`. -/
theorem test_ly_after_a_line : readsOf [.advance 456, .readLy] State.reset = some [0x01] := by decide +kernel

/-- C4: `W LY, 0x55` at LY 100 in mode 0 with acc 48. -/
theorem test_ly_write_clears :
    (runAll [.writeLy 0x55] { State.reset with
      ly := 100, mode := .hblank, acc := 48, windowLine := 3, coincidence := false }).map
      (fun t => ((t.ly, t.windowLine, t.mode), t.acc, t.coincidence, t.events)) =
    some ((0, 0, .hblank), 48, true, []) := by decide

/-- C5: with STAT.6 set an LY write requests an LYC interrupt although LY was 0. -/
theorem test_ly_write_requests :
    (runAll [.writeStat 0x40, .writeLy 0x00] State.reset).map (·.events) = some [.irqStat .lyc] := by decide

/-- C1: `W LYC, 5` leaves the flag; R LYC gives the byte. -/
theorem test_lyc_no_recheck : readsOf [.writeLyc 5, .readStat, .readLyc] State.reset = some [0x06, 5] := by decide

/-- C2 and C3: with the parameter set, checkLYC runs. -/
theorem test_lyc_recheck :
    (runAll [.writeStat 0x40, .writeLyc 0, .readStat] recheck).map (fun t => (t.events, t.reads)) =
      some ([.irqStat .lyc], [0x46]) ∧
    readsOf [.writeLyc 5, .readStat] recheck = some [0x02] := by decide

/-- B5: offset 6 holds no register. -/
theorem test_base6 : runAll [.writeBase6 0xC0] State.reset = some State.reset ∧
    readsOf [.readBase6] State.reset = some [0xFF] := ⟨rfl, rfl⟩

/-! ### Colour-mode registers and palettes (L2.4, L2.5) -/

/-- B8 and B9: VBK reads 0xFE with its one bit. -/
theorem test_vbk : readsOf [.writeVbk 0x03, .readVbk, .writeVbk 0x00, .readVbk] colour = some [0xFF, 0xFE] := by
  decide

/-- B6 and B7: unmapped in monochrome mode. -/
theorem test_colour_registers_monochrome :
    readsOf [.readVbk, .writeBcps 0x80, .readBcps, .readBcpd, .readOcps, .readOcpd] State.reset =
    some [0xFF, 0xFF, 0xFF, 0xFF, 0xFF] := by decide

/-- P1 to P3: low byte, high byte, index, and reads that do not advance it. -/
theorem test_bg_palette_round_trip :
    readsOf [.writeBcps 0x80, .writeBcpd 0x1F, .writeBcpd 0x7C, .readBcps, .writeBcps 0x00, .readBcpd, .readBcps,
      .writeBcps 0x01, .readBcpd, .readBcps] colour = some [0x82, 0x1F, 0x00, 0x7C, 0x01] := by decide

/-- P4: the high byte drops bit 7; without the flag the index stays. -/
theorem test_bg_palette_high_byte :
    (runAll [.writeBcps 0x05, .writeBcpd 0xFF, .readBcps, .readBcpd] colour).map
      (fun t => (entryOf t.bgPal 5, t.reads)) = some (0x7F00, [0x05, 0x7F]) := by decide

/-- P5: index 63 with the flag wraps to 0. -/
theorem test_obj_palette_wrap :
    (runAll [.writeOcps 0xBF, .writeOcpd 0x12, .readOcps] colour).map (fun t => (entryOf t.objPal 63, t.reads)) =
    some (0x1200, [0x80]) := by decide

/-- P6 and P7: bit 6 is dropped. -/
theorem test_palette_index_bit6 :
    readsOf [.writeBcps 0xC3, .readBcps, .writeOcps 0x7F, .readOcps] colour = some [0x83, 0x3F] := by decide

/-- P8, written out: OBJPAL[1][3] = 0x001F from index 0x8E. -/
theorem test_obj_palette_set :
    (runAll [.writeOcps 0x8E, .writeOcpd 0x1F, .writeOcpd 0x00, .readOcps, .writeOcps 0x0E, .readOcpd] colour).map
      (fun t => (entryOf t.objPal 14, t.reads)) = some (0x001F, [0x90, 0x1F]) := by decide

/-! ### VRAM, OAM and unmapped addresses (L2.4) -/

/-- B10: the two banks in colour mode. -/
theorem test_vram_banks :
    (runAll [.writeVbk 1, .writeVram 0 0x5A, .writeVbk 0, .readVram 0] colour).map
      (fun t => (t.reads, t.vram)) = some ([0x00], [(0x2000, 0x5A)]) := by decide

/-- B11: bank 0 in monochrome mode. -/
theorem test_vram_monochrome :
    (runAll [.writeVbk 1, .writeVram 0 0x5A, .readVram 0] State.reset).map (fun t => (t.reads, t.vram)) =
    some ([0x5A], [(0, 0x5A)]) := by decide

/-- B12: an OAM byte; the sprite list stays. -/
theorem test_oam :
    (runAll [.writeOam 1 0x20, .readOam 1] { State.reset with spriteList := [3] }).map
      (fun t => (t.reads, t.spriteList)) = some ([0x20], [3]) := by decide

/-- R273, R274: the sentinel, and no change. -/
theorem test_unmapped : readsOf [.writeUnmapped 0xA000 0x12, .readUnmapped 0xA000] State.reset = some [0xFF] := by
  decide

/-! ### Sequencer (L2.1) -/

/-- S2: 79 dots. -/
theorem test_advance_79 : (runAll [.advance 79] State.reset).map (fun t => (t.mode, t.acc)) =
    some (.oamSearch, 79) := by decide

/-- S22 up to its events: the end of mode 3 with STAT.3 set, display off. -/
theorem test_advance_252 :
    (runAll [.writeStat 0x08, .advance 252] State.reset).map (fun t => (t.mode, t.acc, t.stat, t.events)) =
    some (.hblank, 0, 0x0C, [.lineReady 0, .irqStat .hblank, .hdmaHblank]) := by decide +kernel

/-- S3. -/
theorem test_t23 : (runAll [.t23] State.reset).map (fun t => (t.mode, t.events, t.stat)) =
    some (.pixelTransfer, [], 0x07) := by decide

/-- S22: row 0 is BLANK_COLOR with the display off. -/
theorem test_t30 :
    (runAll [.t30] { State.reset with mode := .pixelTransfer }).map
      (fun t => (t.mode, t.events, t.frame[0][159])) =
    some (.hblank, [.lineReady 0, .hdmaHblank], 0xFFFFFFFF) := by decide +kernel

/-- S14: STAT.5 set, LY 0 to 1. -/
theorem test_t02 :
    (runAll [.writeStat 0x20, .t02, .readStat] { State.reset with mode := .hblank }).map
      (fun t => (t.mode, t.ly, t.reads, t.events)) = some (.oamSearch, 1, [0x22], [.irqStat .oam]) := by decide

/-- S16: the order of the events at LY 144 with LYC 144. -/
theorem test_t01 :
    (runAll [.writeStat 0x78, .writeLyc 144, .t01, .readStat] { State.reset with mode := .hblank, ly := 143 }).map
      (fun t => (t.mode, t.ly, t.reads, t.events)) =
    some (.vblank, 144, [0x7D], [.irqStat .lyc, .irqStat .vblank, .irqVblank, .frameReady]) := by decide

/-- S18. -/
theorem test_t11 :
    (runAll [.advance 456] { State.reset with mode := .vblank, ly := 144, coincidence := false }).map
      (fun t => (t.mode, t.acc, t.ly, t.stat, t.events)) = some (.vblank, 0, 145, 0x01, []) := by decide

/-- S17 and S19: the frame wrap with STAT.6 and STAT.5 set. -/
theorem test_t12 :
    (runAll [.writeStat 0x60, .advance 456] { State.reset with
      mode := .vblank, ly := 153, windowLine := 7, coincidence := false }).map
      (fun t => ((t.mode, t.acc, t.ly), t.windowLine, t.stat, t.events)) =
    some ((.oamSearch, 0, 0), 0, 0x66, [.irqStat .lyc, .irqStat .oam]) := by decide

/-- The last step of L1-2: LY 143 to 144. -/
theorem test_line_143 :
    (runAll [.advance 204] { State.reset with mode := .hblank, ly := 143 }).map (fun t => (t.mode, t.acc, t.ly)) =
    some (.vblank, 0, 144) := by decide

/-- O1 to O3: rows 0 and 7 are visible, row 8 is not, X does not matter. -/
theorem test_oam_search_rows :
    ({ State.reset with oam := mem [(0, 16), (1, 8), (4, 9), (5, 8)] }).oamSearch.spriteList = [0, 1] ∧
    ({ State.reset with oam := mem [(0, 9), (1, 8), (4, 8), (5, 16)] }).oamSearch.spriteList = [0] ∧
    ({ State.reset with oam := mem [(0, 16), (5, 20)] }).oamSearch.spriteList = [0] := by decide

/-- O4: the first ten of eleven. -/
theorem test_oam_search_limit :
    ({ State.reset with oam := mem ((List.range 11).map fun n => (4 * n, 16)) }).oamSearch.spriteList =
    [0, 1, 2, 3, 4, 5, 6, 7, 8, 9] := by decide +kernel

/-- O5 and O6: sprite height. -/
theorem test_oam_search_height :
    ({ State.reset with ly := 8, lcdc := 0x04, oam := mem [(0, 16)] }).oamSearch.spriteList = [0] ∧
    ({ State.reset with ly := 8, oam := mem [(0, 16)] }).oamSearch.spriteList = [] := by decide

/-! ### Compositor -/

/-- R191: line 144 is refused, line 143 is not. -/
theorem test_render_line_144 :
    refusal (exec (.renderLine 144) State.reset) = some (.renderLineNotVisible 144) ∧
    refusal (exec (.renderLine 143) State.reset) = none := by decide

/-- P1 and G9: the end-to-end scenario, through RENDER_LINE. -/
theorem test_render_line_solid :
    (runAll [.renderLine 0] { State.reset with lcdc := 0x91, bgp := 0xFC, vram := mem (fill 0 16 0xFF) }).map
      (fun t => (t.frame[0][0], t.frame[0][159], t.frame[1][0])) = some (0xFF000000, 0xFF000000, 0) := by
  decide +kernel

/-- G1: the two bit-planes. -/
theorem test_planes :
    indexes { State.reset with lcdc := 0x91, bgp := 0xE4, vram := mem [(0, 0xA5), (1, 0x0F)] } 0
      [0, 1, 2, 3, 4, 5, 6, 7] = [1, 0, 1, 0, 2, 3, 2, 3] := by decide

/-- G2, G4 and G5: signed and unsigned tile addresses. -/
theorem test_tile_addresses :
    indexes { State.reset with lcdc := 0x81, vram := mem [(0x1800, 0x80), (0x0800, 0xFF)] } 0 [0, 7, 8] = [1, 1, 0] ∧
    indexes { State.reset with lcdc := 0x81, vram := mem [(0x1800, 0x7F), (0x17F1, 0xFF)] } 0 [0, 7] = [2, 2] ∧
    indexes { State.reset with lcdc := 0x91, vram := mem [(0x1800, 0x80), (0x0800, 0xFF)] } 0 [0, 7] = [1, 1] := by
  decide

/-- L1-5 and G6: the plane wraps. -/
theorem test_background_wrap :
    shown { State.reset with
      lcdc := 0x91, bgp := 0xE4, scx := 0xFF, scy := 0xFF
      vram := mem [(0x1E, 1), (0x1F, 1), (0x1BFF, 1)] } 0 [0, 1] = [0xFF000000, 0xFFFFFFFF] := by decide

/-- The set-up of L2.7, with WX and WY. -/
def windowState (lcdc wx wy : Byte) : State := { State.reset with
  lcdc := lcdc, wx := wx, wy := wy, bgp := 0xE4
  vram := mem (fill 0x10 16 0xFF ++ fill 0x1C00 32 1) }

/-- W1 to W7: which columns the window draws. -/
theorem test_window_columns :
    indexes (windowState 0xF1 7 0) 0 [0, 159] = [3, 3] ∧ indexes (windowState 0xF1 8 0) 0 [0, 1] = [0, 3] ∧
    indexes (windowState 0xF1 166 0) 0 [158, 159] = [0, 3] ∧ indexes (windowState 0xF1 6 0) 0 [0, 159] = [0, 0] ∧
    indexes (windowState 0xF1 167 0) 0 [159] = [0] ∧ indexes (windowState 0xF1 7 1) 0 [0] = [0] ∧
    indexes (windowState 0xF0 7 0) 0 [0] = [0] := by decide +kernel

/-- W1 to W7: the window-line counter after the line. -/
theorem test_window_line_counter :
    ([(0xF1, 6, 0), (0xF1, 7, 0), (0xF1, 8, 0), (0xF1, 166, 0), (0xF1, 167, 0), (0xF1, 7, 1), (0xF0, 7, 0)] :
        List (Byte × Byte × Byte)).map
      (fun x => ((windowState x.1 x.2.1 x.2.2).renderLine 0).windowLine) = [0, 1, 1, 1, 0, 0, 0] := by
  decide

/-- The set-up of L1-6 and L2.8: tile 1 solid, the two object palettes, the list of records 0 and 1. -/
def spriteState (vram oam : List (Nat × Byte)) : State := { State.reset with
  lcdc := 0x82, obp0 := 0xE4, obp1 := 0x54, spriteList := [0, 1]
  vram := mem (fill 0x10 16 0xFF ++ vram), oam := mem oam }

/-- L1-6: lower X wins; at the same X the lower record wins. -/
theorem test_sprite_order :
    shown (spriteState [] [(0, 16), (1, 20), (2, 1), (3, 0x10), (4, 16), (5, 16), (6, 1)]) 0 [7, 8, 15, 16, 19, 20] =
      [0xFFFFFFFF, 0xFF000000, 0xFF000000, 0xFFAAAAAA, 0xFFAAAAAA, 0xFFFFFFFF] ∧
    shown (spriteState [] [(0, 16), (1, 16), (2, 1), (3, 0x10), (4, 16), (5, 16), (6, 1)]) 0 [8, 15] =
      [0xFFAAAAAA, 0xFFAAAAAA] := by decide +kernel

/-- SP2, SP3 and SP5: the flips. -/
theorem test_sprite_flips :
    shown (spriteState [(0x30, 0x80)] [(0, 16), (1, 8), (2, 3)]) 0 [0, 1] = [0xFFAAAAAA, 0xFFFFFFFF] ∧
    shown (spriteState [(0x30, 0x80)] [(0, 16), (1, 8), (2, 3), (3, 0x20)]) 0 [0, 7] = [0xFFFFFFFF, 0xFFAAAAAA] ∧
    shown (spriteState [(0x3E, 0xFF)] [(0, 16), (1, 8), (2, 3), (3, 0x40)]) 0 [0, 7] =
      [0xFFAAAAAA, 0xFFAAAAAA] := by decide +kernel

/-- SP6 and SP7: 8×16 sprites. -/
theorem test_sprite_tall :
    shown { spriteState [(0x30, 0xFF)] [(0, 16), (1, 8), (2, 3)] with lcdc := 0x86 } 8 [0, 7] =
      [0xFFAAAAAA, 0xFFAAAAAA] ∧
    shown { spriteState [(0x30, 0xFF)] [(0, 16), (1, 8), (2, 3)] with lcdc := 0x86 } 0 [0] = [0xFFFFFFFF] ∧
    shown { spriteState [(0x30, 0xFF)] [(0, 16), (1, 8), (2, 3), (3, 0x40)] with lcdc := 0x86 } 7 [0] =
      [0xFFAAAAAA] := by decide +kernel

/-- SP8: columns cut at both edges. -/
theorem test_sprite_edges :
    shown (spriteState [] [(0, 16), (1, 1), (2, 1), (4, 16), (5, 167), (6, 1)]) 0 [0, 1, 158, 159] =
    [0xFF000000, 0xFFFFFFFF, 0xFFFFFFFF, 0xFF000000] := by decide +kernel

/-- The set-up of SP10. -/
def behindState (bgp : Byte) : State := { spriteState
  ((List.range 8).map (fun k => (0x21 + 2 * k, 0xFF)) ++ [(0x1801, 2)]) [(0, 16), (1, 12), (2, 1), (3, 0x80)] with
  lcdc := 0x93, bgp := bgp }

/-- SP10 and SP11: behind the background, by index. -/
theorem test_sprite_behind :
    shown (behindState 0xE4) 0 [4, 7, 8, 15] = [0xFF000000, 0xFF000000, 0xFF555555, 0xFF555555] ∧
    shown (behindState 0x00) 0 [8, 15] = [0xFFFFFFFF, 0xFFFFFFFF] := by decide +kernel

/-- A palette table with one entry set. -/
def palettesWith (p : BitVec 3) (c : BitVec 2) (v : Rgb15) (t : Palettes) : Palettes := t.write p c v

/-- The set-up of SP13. -/
def colourSprites : State := { spriteState [] [(0, 16), (1, 20), (2, 1), (3, 1), (4, 16), (5, 16), (6, 1), (7, 2)] with
  cfg := { Config.default with colorMode := true }
  objPal := palettesWith 1 3 0x001F (palettesWith 2 3 0x03E0 State.reset.objPal) }

/-- SP13: in colour mode the lower record wins. -/
theorem test_sprite_colour_order :
    shown colourSprites 0 [8, 11, 12, 19] = [0xFF00FF00, 0xFF00FF00, 0xFFFF0000, 0xFFFF0000] := by decide +kernel

/-- The set-up of SP14, with its parameter. -/
def behindColour (needsNonzero : Bool) : State := { spriteState [] [(0, 16), (1, 16), (2, 1), (3, 0x80)] with
  cfg := { Config.default with colorMode := true, cgbObjBehindNeedsBgNonzero := needsNonzero }
  lcdc := 0x93, spriteList := [0], objPal := palettesWith 0 3 0x001F State.reset.objPal }

/-- SP14: the parameter of R226. -/
theorem test_sprite_colour_behind :
    shown (behindColour false) 0 [8, 15] = [0xFF000000, 0xFF000000] ∧
    shown (behindColour true) 0 [7, 8, 15] = [0xFF000000, 0xFFFF0000, 0xFFFF0000] := by decide +kernel

/-- The set-up of SP15 and SP16: map entry 1 is `tile` with the PRIO attribute. -/
def prioColour (tile : Byte) : State := { spriteState
  ((List.range 8).map (fun k => (0x21 + 2 * k, 0xFF)) ++ [(0x1801, tile), (0x3801, 0x80)])
  [(0, 16), (1, 16), (2, 1)] with
  cfg := { Config.default with colorMode := true }
  lcdc := 0x93, spriteList := [0]
  bgPal := palettesWith 0 2 0x03E0 State.reset.bgPal, objPal := palettesWith 0 3 0x001F State.reset.objPal }

/-- SP15 and SP16: the priority attribute. -/
theorem test_sprite_colour_prio :
    ((prioColour 2).basePixel 0 8).prio = true ∧ shown (prioColour 2) 0 [8, 15] = [0xFF00FF00, 0xFF00FF00] ∧
    shown (prioColour 0) 0 [8, 15] = [0xFFFF0000, 0xFFFF0000] := by decide +kernel

/-- L2.9: the default conversion. -/
theorem test_colour_conversion :
    ([0x7FFF, 0x001F, 0x03E0, 0x7C00, 0x0000, 0x4210] : List Rgb15).map rgb555Formula =
    [0xFFFFFFFF, 0xFFFF0000, 0xFF00FF00, 0xFF0000FF, 0xFF000000, 0xFF848484] := by decide

/-- R12: an entry of the table parameter replaces the formula's value. -/
theorem test_colour_table :
    ({ State.reset with cfg := { Config.default with colorTable := [(0x001F, 0x12345678)] } }).rgbColor 0x001F =
      0x12345678 := by decide

/-- L2.9 and the table parameter, of the numbers the statements use. -/
theorem test_argbOf :
    ([0x7FFF, 0x001F, 0x03E0, 0x7C00, 0x0000, 0x4210] : List Rgb15).map (argbOf Config.default) =
      [0xFFFFFFFF, 0xFFFF0000, 0xFF00FF00, 0xFF0000FF, 0xFF000000, 0xFF848484] ∧
    argbOf { Config.default with colorTable := [(0x001F, 0x12345678)] } 0x001F = 0x12345678 := by decide

/-! ### Witnesses: for each statement with hypotheses, what meets them -/

theorem test_meets_DecodeOfEncodeIsInstruction : Config.default.Valid ∧
    (Instr.writeOam 159 1).wellFormed Config.default = true ∧
    encode Config.default (.writeOam 159 1) = some (.bus 0x1FE9F 1) := by decide

/-- Other valid parameters: the register window at 0, OAM just below VRAM. -/
def otherConfig : Config := { Config.default with regBase := 0, vbkAddr := 0x0C, oamBase := 0x7F60 }

theorem test_meets_RegisterWindowDecode : Config.default.Valid ∧ otherConfig.Valid := by decide

theorem test_meets_VramWindowDecode :
    (0x8000 : Addr).extractLsb' 13 3 = 4 ∧ (0x9FFF : Addr).extractLsb' 13 3 = 4 ∧
    (0x7FFF : Addr).extractLsb' 13 3 ≠ 4 ∧ (0xA000 : Addr).extractLsb' 13 3 ≠ 4 := by decide

theorem test_meets_OamColourAndUnmappedDecode : Config.default.Valid ∧
    decodeTarget Config.default 0xFE00 = .oam 0 ∧ decodeTarget Config.default 0xFE9F = .oam 159 ∧
    Config.default.isUnmapped 0xFEA0 = true ∧ Config.default.isUnmapped 0x0000 = true := by decide

theorem test_meets_SequencerSelection : (142 : Byte).toNat + 1 < 144 ∧ 144 ≤ (143 : Byte).toNat + 1 ∧
    (152 : Byte).toNat + 1 ≤ 153 ∧ 153 < (153 : Byte).toNat + 1 := by decide

theorem test_meets_StepPerformsNextOperation : State.reset.pending = [] ∧
    ({ State.reset with pending := [.advance 1] }).pending = .advance 1 :: [] := by decide

theorem test_meets_BusReadsReturnOneByte : (0x0FF41 : BitVec 17)[16] = false ∧ (0x1FF44 : BitVec 17)[16] = true ∧
    (0x00000 : BitVec 17)[16] = false ∧ (0x1FFFF : BitVec 17)[16] = true := by decide

/-- An LCDC.7 edge, an LY write, and a write that is neither. -/
theorem test_meets_BusOperationsLeavePictureAndSequencer :
    decode Config.default (.bus 0x1FF40 0x91) = .writeLcdc 0x91 ∧ (0x91 : Byte)[7] ≠ State.reset.lcdc[7] ∧
    decode Config.default (.bus 0x1FF44 0x99) = .writeLy 0x99 ∧
    decode Config.default (.bus 0x1FF45 0x99) = .writeLyc 0x99 := by decide

theorem test_meets_monochrome : State.reset.cfg.colorMode = false := by decide

theorem test_meets_colour : colour.cfg.colorMode = true := by decide

theorem test_meets_PaletteLowByteWrite :
    (∀ x ∈ ([⟨0, false⟩, ⟨0, true⟩, ⟨62, false⟩, ⟨62, true⟩] : List PalIndex),
      ({ colour with bcps := x, ocps := x }).cfg.colorMode = true ∧
      ({ colour with bcps := x, ocps := x }).bcps.index.toNat % 2 = 0) := by decide

theorem test_meets_PaletteHighByteWrite :
    (∀ x ∈ ([⟨1, false⟩, ⟨1, true⟩, ⟨63, false⟩, ⟨63, true⟩] : List PalIndex),
      ({ colour with bcps := x, ocps := x }).cfg.colorMode = true ∧
      ({ colour with bcps := x, ocps := x }).bcps.index.toNat % 2 = 1) := by decide

theorem test_meets_PaletteRoundTrip :
    ∀ k ∈ ([0, 31] : List (Fin 32)),
      ({ colour with bcps := ⟨BitVec.ofNat 6 (2 * k.val), true⟩ }).cfg.colorMode = true ∧
      ({ colour with bcps := ⟨BitVec.ofNat 6 (2 * k.val), true⟩ }).bcps = ⟨BitVec.ofNat 6 (2 * k.val), true⟩ := by
  decide

/-- A state whose memories list something at both ends of their spaces. -/
def withMemory : State := { State.reset with
  vram := [(0, 1), (0x1FFF, 2), (0x2000, 3), (0x3FFF, 4)], oam := [(0, 5), (159, 6)] }

theorem test_meets_VramAccess : withMemory.MemoryOk ∧ State.reset.MemoryOk := by decide

theorem test_meets_OamAccess : withMemory.MemoryOk ∧ (0 : BitVec 8).toNat < 160 ∧ (159 : BitVec 8).toNat < 160 := by
  decide

theorem test_meets_LycWrite : State.reset.cfg.lycWriteRecheck = false ∧ recheck.cfg.lycWriteRecheck = true := by
  decide

theorem test_meets_LcdcWrite : (0x11 : Byte)[7] = State.reset.lcdc[7] ∧ (0x91 : Byte)[7] ≠ State.reset.lcdc[7] := by
  decide

/-- The reset state in a mode, at a line. -/
def stateAt (m : Mode) (ly : Byte) : State := { State.reset with mode := m, ly := ly }

theorem test_meets_CoincidenceOnEveryLineTransition :
    ((stateAt .hblank 0).mode = .hblank ∨ (stateAt .hblank 0).mode = .vblank) ∧
    (.t02 : Instr) = decodeSeq (stateAt .hblank 0).mode (stateAt .hblank 0).ly ∧
    ((stateAt .vblank 153).mode = .hblank ∨ (stateAt .vblank 153).mode = .vblank) ∧
    (.t12 : Instr) = decodeSeq (stateAt .vblank 153).mode (stateAt .vblank 153).ly ∧
    (0x91 : Byte)[7] ≠ State.reset.lcdc[7] := by decide

/-- LY changes by a transition, by an LY write, by an LCDC.7 edge and inside `advance`. -/
theorem test_meets_CoincidenceOnEveryLineTransition_change :
    [(after (exec .t02 (stateAt .hblank 0))).map (·.ly), (after (exec (.writeLy 0x55) (stateAt .hblank 7))).map (·.ly),
      (after (exec (.writeLcdc 0x91) (stateAt .hblank 7))).map (·.ly),
      (after (exec (.advance 204) (stateAt .hblank 7))).map (·.ly)] = [some 1, some 0, some 0, some 8] := by decide

/-- C5 and R162: an LY write of a non-zero byte, and an LCDC.7 edge, each request an LYC interrupt once. -/
theorem test_lyc_requests_without_transition :
    (runAll [.writeLy 0x55] { stateAt .hblank 7 with statHi := 8 }).map (·.events) = some [.irqStat .lyc] ∧
    (runAll [.writeLcdc 0x91] { stateAt .hblank 7 with statHi := 8 }).map (·.events) = some [.irqStat .lyc] := by
  decide

theorem test_meets_TransitionT23 : (stateAt .oamSearch 0).mode = .oamSearch := by decide

theorem test_meets_TransitionT30 : (stateAt .pixelTransfer 143).mode = .pixelTransfer ∧
    (stateAt .pixelTransfer 143).ly.toNat ≤ 143 := by decide

theorem test_meets_TransitionT02 : ∀ ly ∈ ([0, 142] : List Byte),
    (stateAt .hblank ly).mode = .hblank ∧ (stateAt .hblank ly).ly.toNat + 1 < 144 := by decide

theorem test_meets_TransitionT01 : (stateAt .hblank 143).mode = .hblank ∧ 144 ≤ (stateAt .hblank 143).ly.toNat + 1 := by
  decide

theorem test_meets_TransitionT11 : ∀ ly ∈ ([144, 152] : List Byte),
    (stateAt .vblank ly).mode = .vblank ∧ (stateAt .vblank ly).ly.toNat + 1 ≤ 153 := by decide

theorem test_meets_TransitionT12 : (stateAt .vblank 153).mode = .vblank ∧ 153 < (stateAt .vblank 153).ly.toNat + 1 := by
  decide

theorem test_meets_AdvanceLoop : State.reset.acc + 79 < duration State.reset.mode ∧
    duration State.reset.mode ≤ State.reset.acc + 80 := by decide

/-- No hook write waiting; and one waiting, with an address beside it. -/
theorem test_meets_AdvanceFrame : State.reset.hookWrites = [] ∧
    ∀ ws ∈ ({ stateAt .pixelTransfer 0 with hookWrites := [[(5, 1)]] }).hookWrites, ∀ w ∈ ws,
      (6 : Nat) ≠ (if (stateAt .pixelTransfer 0).cfg.colorMode then (stateAt .pixelTransfer 0).vbk.toNat else 0) * 0x2000
        + w.1.toNat := by
  refine ⟨rfl, fun ws hws w hw => ?_⟩
  obtain rfl := List.mem_singleton.mp hws
  obtain rfl := List.mem_singleton.mp hw
  decide

/-- R349, R82: a write of the hook call reaches VRAM bank 0 in monochrome mode. -/
theorem test_hook_write :
    (runAll [.t30] { stateAt .pixelTransfer 0 with hookWrites := [[(5, 1)]] }).map (·.vram) = some [(5, 1)] := by
  decide +kernel

theorem test_meets_DotClocked : State.reset.CarryOk ∧ ({ stateAt .vblank 0 with acc := 455 }).CarryOk := by decide

theorem test_meets_LineDuration : ∀ ly ∈ ([0, 143] : List Byte),
    (stateAt .oamSearch ly).mode = .oamSearch ∧ (stateAt .oamSearch ly).acc = 0 ∧ (stateAt .oamSearch ly).ly.toNat ≤ 143 := by
  decide

theorem test_meets_LineDuration_vblank : ∀ ly ∈ ([144, 152] : List Byte),
    (stateAt .vblank ly).mode = .vblank ∧ (stateAt .vblank ly).acc = 0 ∧ (stateAt .vblank ly).ly.toNat ≤ 152 := by
  decide

/-- S2 and S3: the two sides of 80 dots (S5 is `test_advance_252`). -/
theorem test_mode2_lasts_80 :
    (runAll [.advance 79] State.reset).map (·.mode) = some .oamSearch ∧
    (runAll [.advance 80] State.reset).map (·.mode) = some .pixelTransfer ∧
    (runAll [.advance 251] State.reset).map (fun t => (t.mode, t.acc)) = some (.pixelTransfer, 171) := by decide

theorem test_meets_FrameOfEvents :
    State.reset.mode = .oamSearch ∧ State.reset.acc = 0 ∧ State.reset.ly = 0 := by decide

theorem test_meets_VblankAfterLyWrite : ∀ a ∈ [0, 455],
    ({ stateAt .vblank 0 with acc := a }).mode = .vblank ∧ ({ stateAt .vblank 0 with acc := a }).ly = 0 ∧
    ({ stateAt .vblank 0 with acc := a }).acc < 456 := by decide

theorem test_meets_PowerOnState : Launch.zero.Ok ∧
    ({ Launch.zero with vram := withMemory.vram, oam := withMemory.oam }).Ok := by decide

/-- The four invariants hold of a state with something in every field they speak of, and the step from it runs. -/
theorem test_meets_StepKeeps :
    ({ withMemory with spriteList := [0, 39], acc := 79 }).MemoryOk ∧
    ({ withMemory with spriteList := [0, 39], acc := 79 }).CarryOk ∧
    ({ withMemory with spriteList := [0, 39], acc := 79 }).LyOk ∧
    ({ withMemory with spriteList := [0, 39], acc := 79 }).SpritesOk ∧
    (after (step { withMemory with spriteList := [0, 39], acc := 79, pending := [.advance 1] })).isSome = true := by
  decide

theorem test_meets_LyOk_in_vblank : (stateAt .vblank 153).LyOk ∧ ¬ (stateAt .vblank 154).LyOk := by decide

theorem test_meets_ParametersAreConstant : (after (exec .readLy State.reset)).isSome = true := by decide

theorem test_meets_RenderLineContract : (143 : Byte).toNat ≤ 143 ∧ 144 ≤ (144 : Byte).toNat := by decide

theorem test_meets_BlankedLine : State.reset.lcdc[7] = false ∧ (143 : Byte).toNat < rows := by decide

theorem test_meets_LayersOffLine : ({ State.reset with lcdc := 0x80 }).lcdc[7] = true ∧
    ({ State.reset with lcdc := 0x80 }).lcdc[0] = false ∧ ({ State.reset with lcdc := 0x80 }).lcdc[1] = false := by
  decide

/-- Both ways a column is the background's: no window on the line, and a column left of the window. -/
theorem test_meets_BackgroundColumns : (windowState 0x91 7 0).lcdc[7] = true ∧ (windowState 0x91 7 0).lcdc[0] = true ∧
    ¬ WindowShows (windowState 0x91 7 0) 0 ∧ WindowShows (windowState 0xF1 166 0) 0 ∧
    (158 : Nat) + 7 < (windowState 0xF1 166 0).wx.toNat := by decide

theorem test_meets_WindowColumns : WindowShows (windowState 0xF1 7 0) 0 ∧ (windowState 0xF1 7 0).wx.toNat ≤ 0 + 7 ∧
    WindowShows (windowState 0xF1 166 143) 143 ∧ (windowState 0xF1 166 143).wx.toNat ≤ 159 + 7 ∧
    ¬ WindowShows (windowState 0xF1 6 0) 0 ∧ ¬ WindowShows (windowState 0xF1 167 0) 0 := by decide

theorem test_meets_SpritePriority : colourSprites.lcdc[7] = true ∧ colourSprites.lcdc[1] = true ∧
    colourSprites.SpritesOk ∧ colourSprites.spritePixel 0 12 (colourSprites.basePixel 0 12) 0 = some 0xFFFF0000 ∧
    (∀ m ∈ colourSprites.spriteList, colourSprites.spritePixel 0 0 (colourSprites.basePixel 0 0) m = none) ∧
    ∀ m ∈ colourSprites.spriteList, ¬ colourSprites.Outranks m 0 := by decide +kernel

/-- SP10 with its sprite alone and the attribute byte `attr`: index 2 lies under columns 8 to 15. -/
def aloneOverIndex2 (attr : Byte) : State := { behindState 0xE4 with
  spriteList := [0], oam := mem [(0, 16), (1, 12), (2, 1), (3, attr)] }

/-- LCDC.0 set and clear, monochrome and colour mode. -/
theorem test_meets_SingleSpriteColumns : ∀ s ∈ [{ colourSprites with spriteList := [0] }, behindColour true,
      aloneOverIndex2 0, { aloneOverIndex2 0 with lcdc := 0x82 }],
    s.lcdc[7] = true ∧ s.lcdc[1] = true ∧ s.spriteList = [0] := by decide +kernel

/-- The clauses of the statement over index 2: drawn where not hidden, hidden, and no pixel at all. -/
theorem test_meets_SingleSpriteColumns_clauses :
    ((aloneOverIndex2 0).basePixel 0 8).idx = 2 ∧
    opaqueSpritePixel (aloneOverIndex2 0) 0 0 8 = some 0xFF000000 ∧
    ¬ HiddenAt (aloneOverIndex2 0) 0 ((aloneOverIndex2 0).basePixel 0 8).idx ((aloneOverIndex2 0).basePixel 0 8).prio ∧
    HiddenAt (aloneOverIndex2 0x80) 0 ((aloneOverIndex2 0x80).basePixel 0 8).idx
      ((aloneOverIndex2 0x80).basePixel 0 8).prio ∧
    opaqueSpritePixel (aloneOverIndex2 0) 0 0 3 = none ∧
    opaqueSpritePixel (aloneOverIndex2 0) 0 0 12 = none := by decide +kernel

/-- R225 and R216: with BEHIND clear the sprite of SP10 is drawn over index 2, in columns 4 to 11 only. -/
theorem test_sprite_over_nonzero_index :
    shown (aloneOverIndex2 0) 0 [3, 4, 8, 11, 12] =
    [0xFFFFFFFF, 0xFF000000, 0xFF000000, 0xFF000000, 0xFF555555] := by decide +kernel

/-- What `opaqueSpritePixel` says of SP2, SP5, SP8, SP13 and SP14. -/
theorem test_opaqueSpritePixel :
    opaqueSpritePixel (spriteState [(0x30, 0x80)] [(0, 16), (1, 8), (2, 3)]) 0 0 0 = some 0xFFAAAAAA ∧
    opaqueSpritePixel (spriteState [(0x30, 0x80)] [(0, 16), (1, 8), (2, 3)]) 0 0 1 = none ∧
    opaqueSpritePixel (spriteState [(0x3E, 0xFF)] [(0, 16), (1, 8), (2, 3), (3, 0x40)]) 0 0 7 = some 0xFFAAAAAA ∧
    opaqueSpritePixel (spriteState [] [(0, 16), (1, 167), (2, 1)]) 0 0 159 = some 0xFF000000 ∧
    opaqueSpritePixel colourSprites 0 1 8 = some 0xFF00FF00 ∧
    opaqueSpritePixel (behindColour true) 0 0 8 = some 0xFFFF0000 := by decide +kernel

/-- A hidden sprite in monochrome mode, and one that is not. -/
theorem test_meets_HiddenSpritesLeaveBackground_monochrome :
    HiddenAt (behindState 0xE4) 0 2 false ∧ ¬ HiddenAt (behindState 0xE4) 0 0 false := by decide +kernel

/-- A column where every listed sprite is hidden over the buffers the line leaves (`drawLine_idxBuf_get`,
`drawLine_prioBuf_get`), with the display on. -/
theorem test_meets_HiddenSpritesLeaveBackground_column :
    ({ behindState 0xE4 with spriteList := [0] }).lcdc[7] = true ∧
    ∀ n ∈ ({ behindState 0xE4 with spriteList := [0] }).spriteList,
      HiddenAt { behindState 0xE4 with spriteList := [0] } n
        (({ behindState 0xE4 with spriteList := [0] }).basePixel 0 8).idx
        (({ behindState 0xE4 with spriteList := [0] }).basePixel 0 8).prio := by decide +kernel

/-- Hidden sprites in colour mode, and ones that are not, by each reading of the parameter. -/
theorem test_meets_HiddenSpritesLeaveBackground_colour :
    (HiddenAt (behindColour false) 0 0 false ∧ ¬ HiddenAt (behindColour true) 0 0 false) ∧
    (HiddenAt (behindColour true) 0 1 false ∧ HiddenAt (prioColour 2) 0 2 true) ∧
    ¬ HiddenAt (prioColour 2) 0 0 true := by decide +kernel

theorem test_meets_WindowLineCounter : (0 : Byte).toNat < rows ∧ (windowState 0xF1 7 0).lcdc[7] = true ∧
    WindowShows (windowState 0xF1 7 0) 0 ∧ ¬ WindowShows (windowState 0xF1 7 1) 0 := by decide

theorem test_meets_RenderDependsOnlyOnItsInputs :
    SameRenderInputs withMemory { withMemory with ly := 9, lyc := 3, mode := .vblank, acc := 7, statHi := 31 } := by
  exact ⟨rfl, rfl, rfl, rfl, rfl, rfl, rfl, rfl, rfl, rfl, rfl, rfl, rfl, rfl, rfl⟩

theorem test_meets_MonochromeIsolation : withMemory.cfg.colorMode = false ∧
    (after (step { withMemory with pending := [.bus 0x18000 0x77] })).map (·.vram.read 0x2000) = some 3 := by decide

end Sys2Proof.Tests
end

/-! What one instruction can do, said once: the inversion of `exec` and `step` that the invariants rest on, and the
proofs of the statements about the state (spec/10_state.md). -/

namespace Sys2Proof.Machine

/-! ### The shape of an instruction -/

/-- The rows of the table by kind: the bus read or write of a target, a port call, or a transition (R110). -/
inductive InstrShape : Instr → Prop where
  | read (tg : Target) : InstrShape tg.readInstr
  | write (tg : Target) (d : Byte) : InstrShape (tg.writeInstr d)
  | advance (d : Nat) : InstrShape (.advance d)
  | renderLine (ly : Byte) : InstrShape (.renderLine ly)
  | seq (m : Mode) (ly : Byte) : InstrShape (decodeSeq m ly)

/-- Every instruction has one of the shapes. -/
theorem instrShape : ∀ i : Instr, InstrShape i
  | .readLcdc => .read (.reg .lcdc)
  | .writeLcdc d => .write (.reg .lcdc) d
  | .readStat => .read (.reg .stat)
  | .writeStat d => .write (.reg .stat) d
  | .readScy => .read (.reg .scy)
  | .writeScy d => .write (.reg .scy) d
  | .readScx => .read (.reg .scx)
  | .writeScx d => .write (.reg .scx) d
  | .readLy => .read (.reg .ly)
  | .writeLy d => .write (.reg .ly) d
  | .readLyc => .read (.reg .lyc)
  | .writeLyc d => .write (.reg .lyc) d
  | .readBase6 => .read (.reg .base6)
  | .writeBase6 d => .write (.reg .base6) d
  | .readBgp => .read (.reg .bgp)
  | .writeBgp d => .write (.reg .bgp) d
  | .readObp0 => .read (.reg .obp0)
  | .writeObp0 d => .write (.reg .obp0) d
  | .readObp1 => .read (.reg .obp1)
  | .writeObp1 d => .write (.reg .obp1) d
  | .readWy => .read (.reg .wy)
  | .writeWy d => .write (.reg .wy) d
  | .readWx => .read (.reg .wx)
  | .writeWx d => .write (.reg .wx) d
  | .readVbk => .read (.cgb .vbk)
  | .writeVbk d => .write (.cgb .vbk) d
  | .readBcps => .read (.cgb .bcps)
  | .writeBcps d => .write (.cgb .bcps) d
  | .readBcpd => .read (.cgb .bcpd)
  | .writeBcpd d => .write (.cgb .bcpd) d
  | .readOcps => .read (.cgb .ocps)
  | .writeOcps d => .write (.cgb .ocps) d
  | .readOcpd => .read (.cgb .ocpd)
  | .writeOcpd d => .write (.cgb .ocpd) d
  | .readVram off => .read (.vram off)
  | .writeVram off d => .write (.vram off) d
  | .readOam i => .read (.oam i)
  | .writeOam i d => .write (.oam i) d
  | .readUnmapped a => .read (.unmapped a)
  | .writeUnmapped a d => .write (.unmapped a) d
  | .advance d => .advance d
  | .renderLine ly => .renderLine ly
  | .t23 => .seq .oamSearch 0
  | .t30 => .seq .pixelTransfer 0
  | .t02 => .seq .hblank 0
  | .t01 => .seq .hblank 143
  | .t11 => .seq .vblank 0
  | .t12 => .seq .vblank 153

/-- A bus word decodes to the read or the write of the target its address selects, by bit 16 (R111, R123). -/
theorem decode_bus (c : Config) (w : BitVec 17) (d : Byte) :
    decode c (.bus w d) = if w[16] then (decodeTarget c (w.setWidth 16)).writeInstr d
      else (decodeTarget c (w.setWidth 16)).readInstr := rfl

/-! ### Bus transactions -/

/-- A bus read completes, returns one byte and changes nothing else (R270). -/
theorem exec_readInstr (tg : Target) (s : State) :
    ∃ b : Byte, exec tg.readInstr s = .next (s.returnByte b) := by
  have colour : ∀ (r b : Byte), ∃ x, (if s.cfg.colorMode then Host.Outcome.next (s.returnByte r)
      else (.next (s.returnByte b) : Host.Outcome State Fault Refusal)) = .next (s.returnByte x) := fun r b => by
    cases s.cfg.colorMode
    · exact ⟨b, rfl⟩
    · exact ⟨r, rfl⟩
  cases tg with
  | reg r => cases r <;> exact ⟨_, rfl⟩
  | cgb r => cases r <;> exact colour _ 0xFF
  | vram off => exact ⟨_, rfl⟩
  | oam i => exact ⟨_, rfl⟩
  | unmapped a => exact ⟨_, rfl⟩

/-- What a bus write of `d` to a target can do to the state (R110, R276, R284). -/
inductive WriteResult (tg : Target) (d : Byte) (s t : State) : Prop where
  /-- Registers of the window, with the coincidence check of LYC_WRITE_RECHECK; or nothing at all. -/
  | registers (h : t = { s with
      lcdc := t.lcdc, statHi := t.statHi, coincidence := t.coincidence, lyc := t.lyc, scy := t.scy, scx := t.scx
      wy := t.wy, wx := t.wx, bgp := t.bgp, obp0 := t.obp0, obp1 := t.obp1, events := t.events })
  /-- LCDC with bit 7 changed. -/
  | restart (htg : tg = .reg .lcdc) (hedge : d[7] ≠ s.lcdc[7]) (h : t = ({ s with lcdc := d }).restart)
  /-- LY. -/
  | lineReset (htg : tg = .reg .ly) (h : t = ({ s with ly := 0, windowLine := 0 }).checkLyc)
  /-- The colour registers, in colour mode only. -/
  | colour (hmode : s.cfg.colorMode = true) (h : t = { s with
      vbk := t.vbk, bcps := t.bcps, ocps := t.ocps, bgPal := t.bgPal, objPal := t.objPal })
  /-- A byte of the VRAM window. -/
  | vram (off : BitVec 13) (h : t = s.busVramWrite off d)
  /-- A byte of OAM. -/
  | oam (i : Nat) (h : t = s.oamWrite i d)

/-- No bus write reaches the parameters, the picture, the queue or the hook inputs. -/
theorem WriteResult.unwritten {tg : Target} {d : Byte} {s t : State} (h : WriteResult tg d s t) : t = { t with
    cfg := s.cfg, idxBuf := s.idxBuf, prioBuf := s.prioBuf, frame := s.frame, pending := s.pending
    hookWrites := s.hookWrites } := by
  cases h with
  | registers h => rw [h]
  | restart _ _ h => rw [h, State.restart_eq]; rfl
  | lineReset _ h => rw [h, State.checkLyc_eq]
  | colour _ h => rw [h]
  | vram _ h => rw [h]; rfl
  | oam _ h => rw [h]; rfl

/-- Only an LCDC.7 edge moves the sequencer, and it or an LY write the line counters (R276, R284). -/
theorem WriteResult.sequencer {tg : Target} {d : Byte} {s t : State} (h : WriteResult tg d s t) :
    (tg = .reg .lcdc ∧ d[7] ≠ s.lcdc[7]) ∨
      (t.mode = s.mode ∧ t.acc = s.acc ∧ t.spriteList = s.spriteList) ∧
        (tg = .reg .ly ∨ t.ly = s.ly ∧ t.windowLine = s.windowLine) := by
  cases h with
  | registers h => rw [h]; exact .inr ⟨⟨rfl, rfl, rfl⟩, .inr ⟨rfl, rfl⟩⟩
  | restart htg hedge _ => exact .inl ⟨htg, hedge⟩
  | lineReset htg h => rw [h, State.checkLyc_eq]; exact .inr ⟨⟨rfl, rfl, rfl⟩, .inl htg⟩
  | colour _ h => rw [h]; exact .inr ⟨⟨rfl, rfl, rfl⟩, .inr ⟨rfl, rfl⟩⟩
  | vram _ h => rw [h]; exact .inr ⟨⟨rfl, rfl, rfl⟩, .inr ⟨rfl, rfl⟩⟩
  | oam _ h => rw [h]; exact .inr ⟨⟨rfl, rfl, rfl⟩, .inr ⟨rfl, rfl⟩⟩

/-- A write of LCDC restarts the sequencer exactly when bit 7 changes (R276). -/
theorem exec_writeLcdc (d : Byte) (s : State) : exec (.writeLcdc d) s =
    .next (if s.lcdc[7] = d[7] then { s with lcdc := d } else ({ s with lcdc := d }).restart) := by
  show execWriteLcdc d s = _
  unfold execWriteLcdc
  split <;> rfl

/-- Every bus write completes, with one of the results. -/
theorem exec_writeInstr (tg : Target) (d : Byte) (s : State) :
    ∃ t : State, exec (tg.writeInstr d) s = .next t ∧ WriteResult tg d s t := by
  have colour : ∀ (r : CgbReg) (u : State), u = { s with
      vbk := u.vbk, bcps := u.bcps, ocps := u.ocps, bgPal := u.bgPal, objPal := u.objPal } →
      ∃ t : State, (if s.cfg.colorMode then .next u else .next s : Host.Outcome State Fault Refusal) = .next t ∧
        WriteResult (.cgb r) d s t := fun r u hu => by
    cases hmode : s.cfg.colorMode
    · exact ⟨s, rfl, .registers rfl⟩
    · exact ⟨u, rfl, .colour hmode hu⟩
  cases tg with
  | reg r =>
    cases r with
    | lcdc =>
      refine ⟨_, exec_writeLcdc d s, ?_⟩
      split
      · exact .registers rfl
      · rename_i hedge
        exact .restart rfl (Ne.symm hedge) rfl
    | ly => exact ⟨_, rfl, .lineReset rfl rfl⟩
    | lyc =>
      refine ⟨_, rfl, ?_⟩
      split
      · rw [State.checkLyc_eq]
        exact .registers rfl
      · exact .registers rfl
    | stat | scy | scx | base6 | bgp | obp0 | obp1 | wy | wx => exact ⟨_, rfl, .registers rfl⟩
  | cgb r => cases r <;> exact colour _ _ rfl
  | vram off => exact ⟨_, rfl, .vram off rfl⟩
  | oam i => exact ⟨_, rfl, .oam i.toNat rfl⟩
  | unmapped a => exact ⟨_, rfl, .registers rfl⟩

/-! ### Transitions -/

/-- A row of the transitions performs the transition the mode and LY select, or nothing (R122; log entry 7). -/
theorem exec_decodeSeq (m : Mode) (ly : Byte) (s : State) :
    exec (decodeSeq m ly) s = .next s ∨ exec (decodeSeq m ly) s = .next s.transition := by
  have row : ∀ (p : Prop) (_ : Decidable p) (u : State), (p → s.transition = u) →
      (if p then .next u else .next s : Host.Outcome State Fault Refusal) = .next s ∨
      (if p then .next u else .next s : Host.Outcome State Fault Refusal) = .next s.transition := by
    intro p _ u hu
    by_cases hp : p
    · exact .inr (by rw [if_pos hp, hu hp])
    · exact .inl (if_neg hp)
  unfold decodeSeq
  cases m with
  | oamSearch => exact row _ _ _ transition_of_oamSearch
  | pixelTransfer => exact row _ _ _ transition_of_pixelTransfer
  | hblank =>
    dsimp only
    split
    · exact row _ _ _ fun ⟨hm, hl⟩ => by rw [transition_of_hblank hm, if_pos hl]
    · exact row _ _ _ fun ⟨hm, hl⟩ => by rw [transition_of_hblank hm, if_neg (by omega)]
  | vblank =>
    dsimp only
    split
    · exact row _ _ _ fun ⟨hm, hl⟩ => by rw [transition_of_vblank hm, if_pos hl]
    · exact row _ _ _ fun ⟨hm, hl⟩ => by rw [transition_of_vblank hm, if_neg (by omega)]

/-- The transition the mode and LY select is one of the six (R122). -/
theorem transition_cases (s : State) :
    s.transition = s.t23 ∨ s.transition = s.t30 ∨ s.transition = s.t02 ∨ s.transition = s.t01 ∨
      s.transition = s.t11 ∨ s.transition = s.t12 := by
  unfold State.transition
  split
  · simp
  · simp
  · split <;> simp
  · split <;> simp

/-- A transition writes LY, the flag, the sequencer's fields but acc, the picture, VRAM, the hook inputs and the
events, and no other field (R147 to R152). -/
theorem transition_writes (s : State) : s.transition = { s with
    coincidence := s.transition.coincidence, ly := s.transition.ly, mode := s.transition.mode
    windowLine := s.transition.windowLine, spriteList := s.transition.spriteList, idxBuf := s.transition.idxBuf
    prioBuf := s.transition.prioBuf, frame := s.transition.frame, vram := s.transition.vram
    hookWrites := s.transition.hookWrites, events := s.transition.events } := by
  rcases transition_cases s with h | h | h | h | h | h <;> rw [h]
  · rfl
  · rw [State.t30_eq, State.renderLine_writes]
  · rw [State.t02_eq]; rfl
  · rw [State.t01_eq]
  · rw [State.t11_eq]
  · rw [State.t12_eq]; rfl

/-- A transition leaves the VRAM alone, or makes the writes of one hook call through the bus window (R101, R148). -/
theorem transition_vram (s : State) : s.transition.vram = s.vram ∨ s.transition.vram =
    (s.hookWrites.headD []).foldl (fun m w => m.write (vramIndex s.busBank w.1.toNat) w.2) s.vram := by
  rcases transition_cases s with h | h | h | h | h | h <;> rw [h]
  · exact .inl rfl
  · exact .inr (by rw [State.t30_eq])
  · exact .inl (by rw [State.t02_eq]; rfl)
  · exact .inl (by rw [State.t01_eq])
  · exact .inl (by rw [State.t11_eq])
  · exact .inl (by rw [State.t12_eq]; rfl)

/-- A transition leaves the sprite list alone, or leaves what an OAM search finds (R149, R152). -/
theorem transition_spriteList (s : State) : s.transition.spriteList = s.spriteList ∨
    ∃ u : State, s.transition.spriteList = u.oamSearch.spriteList := by
  rcases transition_cases s with h | h | h | h | h | h <;> rw [h]
  · exact .inl rfl
  · exact .inl (by rw [State.t30_eq, State.renderLine_writes])
  · exact .inr ⟨_, by rw [State.t02_eq]⟩
  · exact .inl (by rw [State.t01_eq])
  · exact .inl (by rw [State.t11_eq])
  · exact .inr ⟨_, by rw [State.t12_eq]⟩

/-! ### What every part of an instruction keeps, every instruction keeps -/

/-- A property that each part of an instruction keeps: a byte returned, a bus write, the counting of dots, a
transition and a render. -/
structure KeptByParts (P : State → Prop) : Prop where
  returnByte : ∀ (s : State) (b : Byte), P s → P (s.returnByte b)
  write : ∀ {tg : Target} {d : Byte} {s t : State}, WriteResult tg d s t → P s → P t
  setAcc : ∀ (s : State) (n : Nat), P s → P { s with acc := n }
  transition : ∀ s : State, P s → P s.transition
  renderLine : ∀ (s : State) (ly : Byte), P s → P (s.renderLine ly)

section
variable {P : State → Prop} (hP : KeptByParts P)
include hP

/-- The loop of `advance` keeps what its parts keep. -/
theorem KeptByParts.advance {s : State} (d : Nat) (hs : P s) : P (s.advance d) :=
  runTurns_induction (fun u _ hu => hP.transition _ (hP.setAcc u _ hu)) (hP.setAcc s _ hs)

/-- Every instruction keeps what its parts keep. -/
theorem KeptByParts.exec {i : Instr} {s t : State} (h : exec i s = .next t) (hs : P s) : P t := by
  cases instrShape i with
  | read tg =>
    obtain ⟨b, hb⟩ := exec_readInstr tg s
    cases hb.symm.trans h
    exact hP.returnByte s b hs
  | write tg d =>
    obtain ⟨u, hu, hw⟩ := exec_writeInstr tg d s
    cases hu.symm.trans h
    exact hP.write hw hs
  | advance d =>
    cases h
    exact hP.advance d hs
  | renderLine ly =>
    change execRenderLine ly s = _ at h
    unfold execRenderLine at h
    split at h
    · cases h
      exact hP.renderLine s ly hs
    · cases h
  | seq m ly =>
    rcases exec_decodeSeq m ly s with hu | hu
    · cases hu.symm.trans h
      exact hs
    · cases hu.symm.trans h
      exact hP.transition s hs

/-- Every step keeps what the parts of an instruction and the queue keep. -/
theorem KeptByParts.step (hpending : ∀ (s : State) (ops : List PortOp), P s → P { s with pending := ops })
    {s t : State} (h : step s = .next t) (hs : P s) : P t := by
  unfold Machine.step State.fetch at h
  cases hq : s.pending with
  | nil =>
    rw [hq] at h
    cases h
    exact hs
  | cons op rest =>
    rw [hq] at h
    exact hP.exec h (hpending s rest hs)

end

/-! ### The sprite list -/

/-- The sprite-list invariant reads the sprite list only. -/
theorem spritesOk_of_spriteList_eq {s t : State} (h : t.spriteList = s.spriteList) (hs : s.SpritesOk) :
    t.SpritesOk := by
  unfold State.SpritesOk
  rw [h]
  exact hs

/-- A bus write leaves the sprite list alone, or is a restart and leaves what an OAM search finds (R102, R162). -/
theorem WriteResult.spriteList {tg : Target} {d : Byte} {s t : State} (h : WriteResult tg d s t) :
    t.spriteList = s.spriteList ∨ ∃ u : State, t.spriteList = u.oamSearch.spriteList := by
  cases h with
  | registers h => exact .inl (by rw [h])
  | restart _ _ h => exact .inr ⟨_, by rw [h, State.restart_eq]⟩
  | lineReset _ h => exact .inl (by rw [h, State.checkLyc_eq])
  | colour _ h => exact .inl (by rw [h])
  | vram _ h => exact .inl (by rw [h]; rfl)
  | oam _ h => exact .inl (by rw [h]; rfl)

/-- A list kept from a state that meets the invariant, or left by an OAM search, meets it. -/
theorem spritesOk_of_kept_or_searched {s t : State} (hs : s.SpritesOk)
    (h : t.spriteList = s.spriteList ∨ ∃ u : State, t.spriteList = u.oamSearch.spriteList) : t.SpritesOk := by
  rcases h with h | ⟨u, h⟩
  · exact spritesOk_of_spriteList_eq h hs
  · exact spritesOk_of_spriteList_eq h (oamSearch_spritesOk u)

/-- Each part of an instruction keeps the sprite-list invariant (R57). -/
theorem spritesOk_keptByParts : KeptByParts State.SpritesOk where
  returnByte _ _ hs := hs
  write h hs := spritesOk_of_kept_or_searched hs h.spriteList
  setAcc _ _ hs := hs
  transition s hs := spritesOk_of_kept_or_searched hs (transition_spriteList s)
  renderLine s ly hs := spritesOk_of_spriteList_eq (by rw [State.renderLine_writes]) hs

/-- Settles O46: a list is only ever kept or made by an OAM search. -/
theorem stepKeepsSpriteList : Obligations.StepKeepsSpriteList :=
  fun _ _ hs h => spritesOk_keptByParts.step (fun _ _ hs => hs) h hs

/-! ### The parameters -/

/-- Each part of an instruction keeps the parameters (R56). -/
theorem cfg_keptByParts (c : Config) : KeptByParts (·.cfg = c) where
  returnByte _ _ hs := hs
  write h hs := (congrArg State.cfg h.unwritten).trans hs
  setAcc _ _ hs := hs
  transition s hs := (congrArg State.cfg (transition_writes s)).trans hs
  renderLine s ly hs := (congrArg State.cfg (s.renderLine_writes ly)).trans hs

/-- Settles O47: no part of an instruction writes the parameters. -/
theorem parametersAreConstant : Obligations.ParametersAreConstant :=
  fun _ s _ h => (cfg_keptByParts s.cfg).exec h rfl

/-! ### Monochrome mode -/

/-- What monochrome mode isolates is in `t` as in `s`: VRAM bank 1, VBK, the palette indices and the palette RAM,
with the parameters. -/
structure ColourStateKept (s t : State) : Prop where
  cfg : t.cfg = s.cfg
  bank1 : ∀ off : Nat, t.vram.read (0x2000 + off) = s.vram.read (0x2000 + off)
  vbk : t.vbk = s.vbk
  bcps : t.bcps = s.bcps
  ocps : t.ocps = s.ocps
  bgPal : t.bgPal = s.bgPal
  objPal : t.objPal = s.objPal

theorem ColourStateKept.refl (s : State) : ColourStateKept s s := ⟨rfl, fun _ => rfl, rfl, rfl, rfl, rfl, rfl⟩

theorem ColourStateKept.trans {s t u : State} (h : ColourStateKept s t) (k : ColourStateKept t u) :
    ColourStateKept s u where
  cfg := k.cfg.trans h.cfg
  bank1 off := (k.bank1 off).trans (h.bank1 off)
  vbk := k.vbk.trans h.vbk
  bcps := k.bcps.trans h.bcps
  ocps := k.ocps.trans h.ocps
  bgPal := k.bgPal.trans h.bgPal
  objPal := k.objPal.trans h.objPal

/-- A state that differs from a kept one in other fields only is kept as well. -/
theorem ColourStateKept.congr {s t u : State} (h : ColourStateKept s t) (hu : u = { u with
    cfg := t.cfg, vram := t.vram, vbk := t.vbk, bcps := t.bcps, ocps := t.ocps, bgPal := t.bgPal
    objPal := t.objPal }) : ColourStateKept s u := by
  rw [hu]
  exact ⟨h.cfg, h.bank1, h.vbk, h.bcps, h.ocps, h.bgPal, h.objPal⟩

/-- In monochrome mode the bus window reaches no byte of bank 1 (R82). -/
theorem bank1_ne_vramIndex {s : State} (hmono : s.cfg.colorMode = false) (off : Nat) (o : BitVec 13) :
    0x2000 + off ≠ vramIndex s.busBank o.toNat := by
  have ho := o.isLt
  rw [vramIndex_window, State.busBank_toNat, hmono]
  simp only [Bool.false_eq_true, if_false]
  omega

section
variable {s : State} (hmono : s.cfg.colorMode = false)
include hmono

/-- A bus write keeps what monochrome mode isolates (R82, R264). -/
theorem WriteResult.colourStateKept {tg : Target} {d : Byte} {t : State} (h : WriteResult tg d s t) :
    ColourStateKept s t := by
  cases h with
  | registers h => rw [h]; exact (ColourStateKept.refl s).congr rfl
  | restart _ _ h => rw [h, State.restart_eq]; exact (ColourStateKept.refl s).congr rfl
  | lineReset _ h => rw [h, State.checkLyc_eq]; exact (ColourStateKept.refl s).congr rfl
  | colour hmode _ => exact absurd (hmode.symm.trans hmono) (by decide)
  | vram off h =>
    rw [h]
    exact ⟨rfl, fun k => Memory.read_write_other _ _ (bank1_ne_vramIndex hmono k off), rfl, rfl, rfl, rfl, rfl⟩
  | oam _ h => rw [h]; exact (ColourStateKept.refl s).congr rfl

/-- A transition keeps what monochrome mode isolates: a hook write reaches bank 0 only (log entry 5). -/
theorem transition_colourStateKept : ColourStateKept s s.transition where
  cfg := by rw [transition_writes]
  bank1 off := by
    rcases transition_vram s with h | h <;> rw [h]
    exact hookWrites_read_other (fun w => vramIndex s.busBank w.1.toNat) _ _ fun w _ =>
      bank1_ne_vramIndex hmono off w.1
  vbk := by rw [transition_writes]
  bcps := by rw [transition_writes]
  ocps := by rw [transition_writes]
  bgPal := by rw [transition_writes]
  objPal := by rw [transition_writes]

/-- Each part of an instruction keeps what monochrome mode isolates. -/
theorem colourStateKept_keptByParts : KeptByParts (ColourStateKept s) where
  returnByte _ _ h := h.congr rfl
  write hw h := h.trans (hw.colourStateKept (h.cfg ▸ hmono))
  setAcc _ _ h := h.congr rfl
  transition _ h := h.trans (transition_colourStateKept (h.cfg ▸ hmono))
  renderLine u ly h := by
    rw [u.renderLine_writes ly]
    exact h.congr rfl

end

/-- Settles O59: with COLOR_MODE false the bus window reaches bank 0 only and the colour registers are unmapped. -/
theorem monochromeIsolation : Obligations.MonochromeIsolation := by
  intro s t hmono h
  have hkept := (colourStateKept_keptByParts hmono).step (fun _ _ hu => hu.congr rfl) h (.refl s)
  exact ⟨fun off _ => hkept.bank1 off, hkept.vbk, hkept.bcps, hkept.ocps, hkept.bgPal, hkept.objPal⟩

/-! ### Bus transactions and the picture -/

/-- Settles O10: a read adds a byte to those returned, a write is one of the results of `WriteResult`. -/
theorem busOperationsLeavePictureAndSequencer : Obligations.BusOperationsLeavePictureAndSequencer := by
  intro s w d
  rw [decode_bus]
  generalize decodeTarget s.cfg (w.setWidth 16) = tg
  cases w[16] with
  | false =>
    obtain ⟨b, hb⟩ := exec_readInstr tg s
    exact ⟨_, hb, rfl, rfl, rfl, rfl, rfl, rfl, .inr ⟨rfl, rfl, rfl⟩, .inr (.inr ⟨rfl, rfl⟩)⟩
  | true =>
    obtain ⟨t, ht, hw⟩ := exec_writeInstr tg d s
    have hu := hw.unwritten
    refine ⟨t, ht, by rw [hu], by rw [hu], by rw [hu], by rw [hu], by rw [hu], by rw [hu], ?_⟩
    rcases hw.sequencer with ⟨rfl, hedge⟩ | ⟨hseq, rfl | hline⟩
    · exact ⟨.inl ⟨rfl, hedge⟩, .inl ⟨rfl, hedge⟩⟩
    · exact ⟨.inr hseq, .inr (.inl rfl)⟩
    · exact ⟨.inr hseq, .inr (.inr hline)⟩

/-! ### Reset -/

/-- Over an all-zero OAM no record is visible on any line: its Y of 0 lies 16 lines above the screen (R155). -/
theorem spriteVisible_of_oam_nil {s : State} (h : s.oam = []) (n : Fin 40) : s.spriteVisible n = false := by
  rw [spriteVisible_eq, h, Memory.read_nil, Bool.and_eq_false_iff]
  right
  rw [decide_eq_false_iff_not]
  simp only [Memory.unlisted]
  split <;> simp

/-- A search over an all-zero OAM finds nothing (R55, R370). -/
theorem oamSearch_of_oam_nil {s : State} (h : s.oam = []) : s.oamSearch = { s with spriteList := [] } := by
  have hnone : (List.finRange 40).filter s.spriteVisible = [] :=
    List.filter_eq_nil_iff.mpr fun n _ => by simp [spriteVisible_of_oam_nil h]
  rw [State.oamSearch_eq, hnone]
  rfl

/-- Power-on with the default parameters and launch contents is the reset state (R55, R370). -/
theorem powerOn_default : State.powerOn Config.default Launch.zero = State.reset := by
  rw [State.powerOn, oamSearch_of_oam_nil rfl]
  rfl

/-- An index into a palette table of zeros reads 0. -/
theorem entryOf_replicate_zero (j : Nat) : entryOf (Vector.replicate 8 (Vector.replicate 4 0)) j = 0 := by
  simp [entryOf, Vector.get_eq_getElem]

/-- Settles O41: every field by computation, the invariants by the laws of the memories and of the search. -/
theorem resetState : Obligations.ResetState := by
  have hbuf : ∀ k : Fin columns, State.reset.idxBuf.get k = 0 ∧ State.reset.prioBuf.get k = false := fun k => by
    simp [State.reset, Vector.get_eq_getElem]
  have hframe : ∀ (r : Fin rows) (k : Fin columns), (State.reset.frame.get r).get k = 0 := fun r k => by
    simp [State.reset, Vector.get_eq_getElem]
  have hsprites : State.reset.SpritesOk := ⟨Nat.zero_le _, .nil⟩
  exact ⟨rfl, rfl, rfl, rfl, rfl, rfl, rfl, rfl, rfl, rfl, rfl, rfl, rfl, rfl, rfl, rfl, rfl, rfl, rfl, rfl, rfl, rfl,
    rfl, rfl, rfl, rfl, hbuf, fun j _ => ⟨entryOf_replicate_zero j, entryOf_replicate_zero j⟩, hframe, rfl,
    by decide, powerOn_default, State.reset_memoryOk, by decide, by decide, hsprites⟩

end Sys2Proof.Machine

/-! The port operation a step performs, and the canonical form of the memories along every step: the proofs of the
statements about the memory (spec/20_memory.md). -/

namespace Sys2Proof.Machine

/-! ### The operation of a step -/

/-- A waiting operation is taken off the queue, decoded and performed whole (R98, R123). -/
theorem step_of_pending_cons {s : State} {op : PortOp} {rest : List PortOp} (h : s.pending = op :: rest) :
    step s = exec (decode s.cfg op) { s with pending := rest } := by
  unfold step State.fetch
  rw [h]

/-- With nothing waiting the block stands still (log entry 3). -/
theorem step_of_pending_nil {s : State} (h : s.pending = []) : step s = .next s := by
  unfold step State.fetch
  rw [h]

/-- Settles O8: by what waits in the queue; a placed word waits first in it. -/
theorem stepPerformsNextOperation : Obligations.StepPerformsNextOperation :=
  ⟨fun _ _ _ => step_of_pending_cons, fun _ => step_of_pending_nil,
    fun s nbits w => step_of_pending_cons (s := s.withFetchWord nbits w) rfl⟩

/-! ### The canonical form of the memories -/

/-- The canonical form reads VRAM and OAM only. -/
theorem memoryOk_of_memories_eq {s t : State} (hvram : t.vram = s.vram) (hoam : t.oam = s.oam) (hs : s.MemoryOk) :
    t.MemoryOk := by
  unfold State.MemoryOk
  rw [hvram, hoam]
  exact hs

/-- A bus write leaves both memories alone, or is a write of one byte inside its space (R41, R42, R82). -/
theorem WriteResult.memoryOk {tg : Target} {d : Byte} {s t : State} (h : WriteResult tg d s t) (hs : s.MemoryOk) :
    t.MemoryOk := by
  cases h with
  | registers h => exact memoryOk_of_memories_eq (by rw [h]) (by rw [h]) hs
  | restart _ _ h => rw [h, State.restart_eq]; exact hs
  | lineReset _ h => rw [h, State.checkLyc_eq]; exact hs
  | colour _ h => exact memoryOk_of_memories_eq (by rw [h]) (by rw [h]) hs
  | vram off h => rw [h]; exact State.vramWrite_memoryOk hs _ _ _
  | oam i h => rw [h]; exact State.oamWrite_memoryOk hs _ _

/-- A transition writes no OAM, and VRAM only through the bus window in one hook call (R101, R148). -/
theorem transition_memoryOk {s : State} (hs : s.MemoryOk) : s.transition.MemoryOk := by
  have hoam : s.transition.oam = s.oam := by rw [transition_writes]
  rcases transition_vram s with hvram | hvram
  · exact memoryOk_of_memories_eq hvram hoam hs
  · obtain ⟨hvramWf, hoamWf, hvramBound, hoamBound⟩ := hs
    obtain ⟨hwf, hbound⟩ := hookWrites_wf s.busBank (s.hookWrites.headD []) ⟨hvramWf, hvramBound⟩
    unfold State.MemoryOk
    rw [hvram, hoam]
    exact ⟨hwf, hoamWf, hbound, hoamBound⟩

/-- Each part of an instruction keeps the memories canonical and inside their spaces (R43, R96). -/
theorem memoryOk_keptByParts : KeptByParts State.MemoryOk where
  returnByte _ _ hs := hs
  write h hs := h.memoryOk hs
  setAcc _ _ hs := hs
  transition _ hs := transition_memoryOk hs
  renderLine s ly hs := by rw [s.renderLine_writes ly]; exact hs

/-- Settles O43: a memory is only ever kept, or written at an address inside its space. -/
theorem stepKeepsMemoryCanonical : Obligations.StepKeepsMemoryCanonical :=
  fun _ _ hs h => memoryOk_keptByParts.step (fun _ _ hs => hs) h hs

end Sys2Proof.Machine

/-! Decoding and encoding of a port operation: a well-formed target and the address it stands at determine each
other. The proofs of the statements about the encoding (spec/30_encoding.md). -/

namespace Sys2Proof

/-! ### The target of an address -/

/-- The operand check of a target, which the read and the write of it share (R117, R120). -/
def Target.wellFormed (c : Config) : Target → Bool
  | .oam i => decide (i.toNat < 160)
  | .unmapped a => c.isUnmapped a
  | _ => true

/-- The place of a target's window in `Config.windows`; an unmapped address lies in none. -/
def Target.windowIndex : Target → Option (Fin 8)
  | .vram _ => some 0
  | .reg _ => some 1
  | .oam _ => some 2
  | .cgb .vbk => some 3
  | .cgb .bcps => some 4
  | .cgb .bcpd => some 5
  | .cgb .ocps => some 6
  | .cgb .ocpd => some 7
  | .unmapped _ => none

/-- Only an unmapped address names no window. -/
theorem Target.eq_unmapped_of_windowIndex_eq_none {t : Target} (h : t.windowIndex = none) : ∃ a, t = .unmapped a := by
  rcases t with _ | (_ | _) | _ | _ | a
  case unmapped => exact ⟨a, rfl⟩
  all_goals cases h

/-- A window of the parameters by its place in `Config.windows`. -/
def Config.window (c : Config) (k : Fin 8) : Window :=
  c.windows[k]'k.isLt

theorem Window.contains_iff (w : Window) (a : Addr) :
    w.contains a = true ↔ w.base ≤ a.toNat ∧ a.toNat < w.base + w.size := by
  simp [Window.contains]

/-- An unmapped address lies outside each window. -/
theorem Config.not_contains_of_isUnmapped {c : Config} {a : Addr} (h : c.isUnmapped a = true) (k : Fin 8) :
    (c.window k).contains a = false := by
  simpa using List.all_eq_true.mp h (c.window k) (List.getElem_mem _)

/-- With valid parameters the windows share no address (R13). -/
theorem Config.Valid.window_unique {c : Config} (hc : c.Valid) {a : Addr} {i j : Fin 8}
    (hi : (c.window i).contains a = true) (hj : (c.window j).contains a = true) : i = j := by
  rw [Window.contains_iff] at hi hj
  have apart : ∀ i j : Fin 8, i < j → (c.window i).Disjoint (c.window j) := fun i j hij =>
    List.pairwise_iff_getElem.mp hc.1 i j i.isLt j.isLt hij
  rcases lt_trichotomy i j with hij | hij | hij
  · have := apart i j hij
    omega
  · exact hij
  · have := apart j i hij
    omega

theorem Reg.offset_lt : ∀ r : Reg, r.offset < 12 := by
  rintro (_ | _) <;> decide

theorem Reg.ofOffset_offset : ∀ r : Reg, Reg.ofOffset r.offset = r := by
  rintro (_ | _) <;> rfl

theorem Reg.offset_ofOffset : ∀ {k : Nat}, k < 12 → (Reg.ofOffset k).offset = k := by
  decide

/-- With valid parameters a register of the window stands at `REG_BASE` plus its offset, without wrapping. -/
theorem Config.Valid.toNat_addr_reg {c : Config} (hc : c.Valid) (r : Reg) :
    ((Target.reg r).addr c).toNat = c.regBase.toNat + r.offset := by
  have hfit := hc.2 ⟨c.regBase.toNat, 12⟩ (by simp [Config.windows])
  have hr := r.offset_lt
  simp only at hfit
  simp only [Target.addr, BitVec.toNat_add, BitVec.toNat_ofNat]
  omega

/-- A VRAM offset stands that far above 8000h. -/
theorem Target.toNat_addr_vram (c : Config) (off : BitVec 13) :
    ((Target.vram off).addr c).toNat = 0x8000 + off.toNat := by
  simp only [Target.addr]
  bv_omega

/-- With valid parameters an index of the OAM window stands at `OAM_BASE` plus it, without wrapping. -/
theorem Config.Valid.toNat_addr_oam {c : Config} (hc : c.Valid) {i : BitVec 8} (hi : i.toNat < 160) :
    ((Target.oam i).addr c).toNat = c.oamBase.toNat + i.toNat := by
  have hfit := hc.2 ⟨c.oamBase.toNat, 160⟩ (by simp [Config.windows])
  simp only at hfit
  simp only [Target.addr, BitVec.toNat_add, BitVec.toNat_setWidth]
  omega

/-- The address of a well-formed target lies in the target's window. -/
theorem Config.Valid.contains_addr {c : Config} (hc : c.Valid) {t : Target} (ht : t.wellFormed c = true)
    {k : Fin 8} (hk : t.windowIndex = some k) : (c.window k).contains (t.addr c) = true := by
  rw [Window.contains_iff]
  cases t with
  | reg r =>
    cases hk
    rw [hc.toNat_addr_reg r]
    exact ⟨Nat.le_add_right .., Nat.add_lt_add_left r.offset_lt _⟩
  | cgb r => cases r <;> cases hk <;> exact ⟨le_rfl, Nat.lt_succ_self _⟩
  | vram off =>
    cases hk
    rw [Target.toNat_addr_vram]
    exact ⟨Nat.le_add_right .., Nat.add_lt_add_left off.isLt _⟩
  | oam i =>
    cases hk
    have hi : i.toNat < 160 := of_decide_eq_true ht
    rw [hc.toNat_addr_oam hi]
    exact ⟨Nat.le_add_right .., Nat.add_lt_add_left hi _⟩
  | unmapped a => cases hk

/-- What `decodeTarget` selects is well-formed and stands at the address, for every parameter set (R114 to R118). -/
theorem decodeTarget_spec (c : Config) (a : Addr) :
    (decodeTarget c a).wellFormed c = true ∧ (decodeTarget c a).addr c = a := by
  unfold decodeTarget
  split_ifs with hvram hreg hoam hvbk hbcps hbcpd hocps hocpd
  · exact ⟨rfl, BitVec.eq_of_toNat_eq (by rw [Target.toNat_addr_vram, BitVec.toNat_ofNat]; omega)⟩
  · refine ⟨rfl, BitVec.eq_of_toNat_eq ?_⟩
    simp only [Target.addr, BitVec.toNat_add, BitVec.toNat_ofNat]
    rw [Reg.offset_ofOffset (by omega)]
    omega
  · refine ⟨decide_eq_true ?_, BitVec.eq_of_toNat_eq ?_⟩
    · rw [BitVec.toNat_ofNat]
      omega
    · simp only [Target.addr, BitVec.toNat_add, BitVec.toNat_setWidth, BitVec.toNat_ofNat]
      omega
  · exact ⟨rfl, hvbk.symm⟩
  · exact ⟨rfl, hbcps.symm⟩
  · exact ⟨rfl, hbcpd.symm⟩
  · exact ⟨rfl, hocps.symm⟩
  · exact ⟨rfl, hocpd.symm⟩
  · refine ⟨?_, rfl⟩
    rw [← BitVec.toNat_inj] at hvbk hbcps hbcpd hocps hocpd
    simp only [Target.wellFormed, Config.isUnmapped, Config.windows, Window.contains, List.all_cons, List.all_nil,
      Bool.and_true, Bool.and_eq_true, Bool.not_eq_true', Bool.and_eq_false_iff, decide_eq_false_iff_not]
    omega

/-- The window a well-formed target names is the one its address lies in. -/
theorem Config.Valid.windowIndex_eq_some_iff {c : Config} (hc : c.Valid) {t : Target} (ht : t.wellFormed c = true)
    (k : Fin 8) : t.windowIndex = some k ↔ (c.window k).contains (t.addr c) = true := by
  refine ⟨hc.contains_addr ht, fun hk => ?_⟩
  cases hj : t.windowIndex with
  | some j => exact congrArg some (hc.window_unique (hc.contains_addr ht hj) hk)
  | none =>
    obtain ⟨a, rfl⟩ := Target.eq_unmapped_of_windowIndex_eq_none hj
    exact absurd hk (by simp [Target.addr, Config.not_contains_of_isUnmapped ht k])

/-- The target at an address of the window with this index. -/
def Config.targetInWindow (c : Config) (a : Addr) : Option (Fin 8) → Target
  | some 0 => .vram (BitVec.ofNat 13 (a.toNat - 0x8000))
  | some 1 => .reg (Reg.ofOffset (a.toNat - c.regBase.toNat))
  | some 2 => .oam (BitVec.ofNat 8 (a.toNat - c.oamBase.toNat))
  | some 3 => .cgb .vbk
  | some 4 => .cgb .bcps
  | some 5 => .cgb .bcpd
  | some 6 => .cgb .ocps
  | some 7 => .cgb .ocpd
  | none => .unmapped a

/-- A well-formed target is recovered from its address and its window. -/
theorem Config.Valid.targetInWindow_addr {c : Config} (hc : c.Valid) {t : Target} (ht : t.wellFormed c = true) :
    c.targetInWindow (t.addr c) t.windowIndex = t := by
  cases t with
  | reg r =>
    simp only [Target.windowIndex, Config.targetInWindow]
    rw [hc.toNat_addr_reg r, Nat.add_sub_cancel_left, Reg.ofOffset_offset]
  | cgb r => cases r <;> rfl
  | vram off =>
    simp only [Target.windowIndex, Config.targetInWindow]
    rw [Target.toNat_addr_vram, Nat.add_sub_cancel_left, BitVec.ofNat_toNat, BitVec.setWidth_eq]
  | oam i =>
    simp only [Target.windowIndex, Config.targetInWindow]
    rw [hc.toNat_addr_oam (of_decide_eq_true ht), Nat.add_sub_cancel_left, BitVec.ofNat_toNat, BitVec.setWidth_eq]
  | unmapped a => rfl

/-- With valid parameters two well-formed targets at one address are the same target. -/
theorem Config.Valid.addr_injective {c : Config} (hc : c.Valid) {t u : Target} (ht : t.wellFormed c = true)
    (hu : u.wellFormed c = true) (h : t.addr c = u.addr c) : t = u := by
  have hindex : t.windowIndex = u.windowIndex := Option.ext fun k => by
    rw [hc.windowIndex_eq_some_iff ht, hc.windowIndex_eq_some_iff hu, h]
  rw [← hc.targetInWindow_addr ht, ← hc.targetInWindow_addr hu, hindex, h]

/-- With valid parameters the address of a well-formed target selects it (R13, R114 to R118). -/
theorem Config.Valid.decodeTarget_eq {c : Config} (hc : c.Valid) {t : Target} {a : Addr}
    (ht : t.wellFormed c = true) (ha : t.addr c = a) : decodeTarget c a = t :=
  have ⟨hwf, haddr⟩ := decodeTarget_spec c a
  hc.addr_injective hwf ht (haddr.trans ha.symm)

/-! ### The transaction word -/

/-- The low 16 bits of a bus word are the address (R111). -/
theorem setWidth_busWord (w : Bool) (a : Addr) : (busWord w a).setWidth 16 = a :=
  BitVec.setWidth_cons

/-- A bus word is its bit 16 and its low 16 bits (R111). -/
theorem busWord_setWidth (w : BitVec 17) : busWord w[16] (w.setWidth 16) = w :=
  BitVec.cons_msb_setWidth w

/-! ### Reads and writes of a target -/

theorem Target.wellFormed_readInstr (c : Config) (t : Target) : t.readInstr.wellFormed c = t.wellFormed c := by
  rcases t with (_ | _) | (_ | _) | _ | _ | _ <;> rfl

theorem Target.wellFormed_writeInstr (c : Config) (d : Byte) (t : Target) :
    (t.writeInstr d).wellFormed c = t.wellFormed c := by
  rcases t with (_ | _) | (_ | _) | _ | _ | _ <;> rfl

theorem Target.encode_readInstr (c : Config) (t : Target) : encode c t.readInstr = some (t.encodeRead c) := by
  rcases t with (_ | _) | (_ | _) | _ | _ | _ <;> rfl

theorem Target.encode_writeInstr (c : Config) (d : Byte) (t : Target) :
    encode c (t.writeInstr d) = some (t.encodeWrite c d) := by
  rcases t with (_ | _) | (_ | _) | _ | _ | _ <;> rfl

/-- A transition has no port operation (R110). -/
theorem encode_decodeSeq (c : Config) (m : Mode) (ly : Byte) : encode c (decodeSeq m ly) = none := by
  cases m with
  | oamSearch => rfl
  | pixelTransfer => rfl
  | hblank => simp only [decodeSeq]; split <;> rfl
  | vblank => simp only [decodeSeq]; split <;> rfl

/-- The read operation of a well-formed target decodes to the read of it. -/
theorem Config.Valid.decode_encodeRead {c : Config} (hc : c.Valid) {t : Target} (ht : t.wellFormed c = true) :
    decode c (t.encodeRead c) = t.readInstr := by
  simp [Target.encodeRead, Machine.decode_bus, Laws.PortForm.busWord_bit16, setWidth_busWord,
    hc.decodeTarget_eq ht rfl]

/-- The write operation of a well-formed target decodes to the write of it. -/
theorem Config.Valid.decode_encodeWrite {c : Config} (hc : c.Valid) {t : Target} (ht : t.wellFormed c = true)
    (d : Byte) : decode c (t.encodeWrite c d) = t.writeInstr d := by
  simp [Target.encodeWrite, Machine.decode_bus, Laws.PortForm.busWord_bit16, setWidth_busWord,
    hc.decodeTarget_eq ht rfl]

/-! ### Decoding and encoding -/

/-- Settles O1: a bus operation carries the address of its target, which selects the target; the two port calls
decode by their port, and a transition has no operation. -/
theorem decodeOfEncodeIsInstruction : Obligations.DecodeOfEncodeIsInstruction := by
  intro c hc i op hwf henc
  cases Machine.instrShape i with
  | read t =>
    rw [t.wellFormed_readInstr] at hwf
    rw [t.encode_readInstr] at henc
    cases henc
    exact hc.decode_encodeRead hwf
  | write t d =>
    rw [t.wellFormed_writeInstr] at hwf
    rw [t.encode_writeInstr] at henc
    cases henc
    exact hc.decode_encodeWrite hwf d
  | advance d => cases henc; rfl
  | renderLine ly => cases henc; rfl
  | seq m ly => rw [encode_decodeSeq] at henc; cases henc

/-- A bus word decodes to a well-formed instruction that encodes to the word, for every parameter set (R118). -/
theorem encode_decode_bus (c : Config) (w : BitVec 17) (d : Byte) :
    (decode c (.bus w d)).wellFormed c = true ∧
      encode c (decode c (.bus w d)) = some (.bus w (if w[16] then d else 0)) := by
  obtain ⟨hwf, haddr⟩ := decodeTarget_spec c (w.setWidth 16)
  have hword := busWord_setWidth w
  rw [Machine.decode_bus]
  cases hw : w[16] with
  | false =>
    rw [hw] at hword
    refine ⟨(Target.wellFormed_readInstr c _).trans hwf, (Target.encode_readInstr c _).trans ?_⟩
    rw [Target.encodeRead, haddr, hword]
    rfl
  | true =>
    rw [hw] at hword
    refine ⟨(Target.wellFormed_writeInstr c d _).trans hwf, (Target.encode_writeInstr c d _).trans ?_⟩
    rw [Target.encodeWrite, haddr, hword]
    rfl

/-- Settles O2: on the bus by the target the address selects, on the two other ports by the port. -/
theorem encodeOfDecodeIsOperation : Obligations.EncodeOfDecodeIsOperation :=
  fun c => ⟨encode_decode_bus c, fun _ => rfl, fun _ => rfl⟩

/-! ### The windows -/

/-- Settles O3: offset `k` is that of the `k`th register, so `REG_BASE + k` is the register's address. -/
theorem registerWindowDecode : Obligations.RegisterWindowDecode := by
  intro c hc k
  have hoffset : ((#v[.lcdc, .stat, .scy, .scx, .ly, .lyc, .base6, .bgp, .obp0, .obp1, .wy, .wx] :
      Vector Reg 12).get k).offset = k.val := by
    decide +revert
  rw [← hoffset]
  exact hc.decodeTarget_eq (t := .reg _) rfl rfl

/-- Settles O4: the three top bits are the quotient by 2000h, and the VRAM window is tested first. -/
theorem vramWindowDecode : Obligations.VramWindowDecode := by
  intro c a
  refine ⟨?_, fun hlo hhi => if_pos ⟨hlo, hhi⟩⟩
  rw [← BitVec.toNat_inj, BitVec.extractLsb'_toNat, Nat.shiftRight_eq_div_pow]
  have ha := a.isLt
  change a.toNat / 2 ^ 13 % 2 ^ 3 = 4 ↔ _
  omega

/-- Settles O5: each of the addresses is that of a well-formed target. -/
theorem oamColourAndUnmappedDecode : Obligations.OamColourAndUnmappedDecode := by
  intro c hc
  refine ⟨fun a hlo hhi => ?_, fun r => hc.decodeTarget_eq (t := .cgb r) rfl rfl,
    fun a ha => hc.decodeTarget_eq (t := .unmapped a) ha rfl⟩
  have hindex : (BitVec.ofNat 8 (a.toNat - c.oamBase.toNat)).toNat = a.toNat - c.oamBase.toNat := by
    rw [BitVec.toNat_ofNat]
    omega
  have hlt : (BitVec.ofNat 8 (a.toNat - c.oamBase.toNat)).toNat < 160 := by omega
  have haddr : (Target.oam (BitVec.ofNat 8 (a.toNat - c.oamBase.toNat))).addr c = a :=
    BitVec.eq_of_toNat_eq (by rw [hc.toNat_addr_oam hlt, hindex]; omega)
  exact hc.decodeTarget_eq (decide_eq_true hlt) haddr

/-! ### The sequencer and the words of the test programs -/

/-- Settles O6: by the mode, and in modes 0 and 1 by the condition on LY. -/
theorem sequencerSelection : Obligations.SequencerSelection :=
  fun _ => ⟨rfl, rfl, fun h => if_pos h, fun h => if_neg (Nat.not_lt.mpr h), fun h => if_pos h,
    fun h => if_neg (Nat.not_le.mpr h)⟩

/-- Settles O7: word by word, by computation. -/
theorem transactionWordsDecode : Obligations.TransactionWordsDecode := by
  unfold Obligations.TransactionWordsDecode
  decide

end Sys2Proof

/-! The sequencer: what a port operation can do to it, its transitions one by one, the loop of `advance`, and the lines
and frames the loop makes. The proofs of the statements about spec/40_sequencer.md. -/

namespace Sys2Proof.Machine

/-! ### What a port operation can do -/

/-- What a port operation can do to the state: return a byte, make a bus write, count dots or render a line (R110). -/
inductive PortResult (s t : State) : Prop where
  | returned (b : Byte) (h : t = s.returnByte b)
  | written (tg : Target) (d : Byte) (h : WriteResult tg d s t)
  | advanced (d : Nat) (h : t = s.advance d)
  | rendered (ly : Byte) (h : t = s.renderLine ly)

/-- An instruction does what a port operation can do, or is a row of the transitions, which performs the transition
the mode and LY select or nothing (R110, R122). -/
theorem exec_cases {i : Instr} {s t : State} (h : exec i s = .next t) :
    PortResult s t ∨ (∃ (m : Mode) (ly : Byte), i = decodeSeq m ly) ∧ (t = s ∨ t = s.transition) := by
  cases instrShape i with
  | read tg =>
    obtain ⟨b, hb⟩ := exec_readInstr tg s
    cases hb.symm.trans h
    exact .inl (.returned b rfl)
  | write tg d =>
    obtain ⟨u, hu, hw⟩ := exec_writeInstr tg d s
    cases hu.symm.trans h
    exact .inl (.written tg d hw)
  | advance d =>
    cases h
    exact .inl (.advanced d rfl)
  | renderLine ly =>
    change execRenderLine ly s = _ at h
    unfold execRenderLine at h
    split at h
    · cases h
      exact .inl (.rendered ly rfl)
    · cases h
  | seq m ly =>
    refine .inr ⟨⟨m, ly, rfl⟩, ?_⟩
    rcases exec_decodeSeq m ly s with hu | hu
    · cases hu.symm.trans h
      exact .inl rfl
    · cases hu.symm.trans h
      exact .inr rfl

/-- No port operation decodes to a row of the transitions (R110; log entry 7). -/
theorem decode_ne_decodeSeq (c : Config) (op : PortOp) (m : Mode) (ly : Byte) : decode c op ≠ decodeSeq m ly := by
  intro h
  have hnone : encode c (decode c op) = none := by rw [h, encode_decodeSeq]
  cases op with
  | bus w d => exact nomatch hnone.symm.trans (encode_decode_bus c w d).2
  | advance d => cases hnone
  | renderLine l => cases hnone

/-- A step takes an operation off the queue, if one waits, and does what a port operation can do (R98). -/
theorem step_cases {s t : State} (h : step s = .next t) :
    t = s ∨ ∃ ops : List PortOp, PortResult { s with pending := ops } t := by
  cases hq : s.pending with
  | nil =>
    cases (step_of_pending_nil hq).symm.trans h
    exact .inl rfl
  | cons op rest =>
    rw [step_of_pending_cons hq] at h
    rcases exec_cases h with hport | ⟨⟨m, ly, hseq⟩, -⟩
    · exact .inr ⟨rest, hport⟩
    · exact absurd hseq (decode_ne_decodeSeq _ _ _ _)

/-! ### The carry invariant -/

/-- The carry invariant reads the mode and the accumulator only. -/
theorem carryOk_of_eq {s t : State} (hmode : t.mode = s.mode) (hacc : t.acc = s.acc) (hs : s.CarryOk) : t.CarryOk := by
  unfold State.CarryOk
  rw [hmode, hacc]
  exact hs

/-- A bus write leaves mode and accumulator alone, or restarts at dot 0 of mode 2 (R162). -/
theorem WriteResult.carryOk {tg : Target} {d : Byte} {s t : State} (h : WriteResult tg d s t) (hs : s.CarryOk) :
    t.CarryOk := by
  cases h with
  | registers h => exact carryOk_of_eq (by rw [h]) (by rw [h]) hs
  | restart _ _ h => rw [h, State.restart_eq]; exact duration_pos .oamSearch
  | lineReset _ h => rw [h, State.checkLyc_eq]; exact hs
  | colour _ h => exact carryOk_of_eq (by rw [h]) (by rw [h]) hs
  | vram _ h => rw [h]; exact hs
  | oam _ h => rw [h]; exact hs

/-- `advance` ends below the duration of its mode, from every state (R142, R144). -/
theorem advance_carryOk (s : State) (d : Nat) : (s.advance d).CarryOk :=
  runTurns_carryOk le_rfl

/-- A port operation keeps the carry invariant (R144). -/
theorem PortResult.carryOk {s t : State} (h : PortResult s t) (hs : s.CarryOk) : t.CarryOk := by
  cases h with
  | returned b h => rw [h]; exact hs
  | written _ _ h => exact h.carryOk hs
  | advanced d h => rw [h]; exact advance_carryOk s d
  | rendered ly h => rw [h, State.renderLine_writes]; exact hs

/-- Settles O44: the loop of `advance` ends only below the duration, and a restart is at dot 0. -/
theorem stepKeepsCarry : Obligations.StepKeepsCarry := by
  intro s t hs h
  rcases step_cases h with rfl | ⟨ops, hport⟩
  · exact hs
  · exact hport.carryOk hs

/-! ### The mode and LY after a transition -/

@[simp] theorem State.t23_mode (s : State) : s.t23.mode = .pixelTransfer := rfl
@[simp] theorem State.t23_ly (s : State) : s.t23.ly = s.ly := rfl
@[simp] theorem State.t30_mode (s : State) : s.t30.mode = .hblank := by rw [State.t30_eq]
@[simp] theorem State.t30_ly (s : State) : s.t30.ly = s.ly := by rw [State.t30_eq, State.renderLine_writes]
@[simp] theorem State.t02_mode (s : State) : s.t02.mode = .oamSearch := by rw [State.t02_eq]
@[simp] theorem State.t02_ly (s : State) : s.t02.ly = s.ly + 1 := by rw [State.t02_eq]; rfl
@[simp] theorem State.t01_mode (s : State) : s.t01.mode = .vblank := by rw [State.t01_eq]
@[simp] theorem State.t01_ly (s : State) : s.t01.ly = s.ly + 1 := by rw [State.t01_eq]
@[simp] theorem State.t11_mode (s : State) : s.t11.mode = s.mode := by rw [State.t11_eq]
@[simp] theorem State.t11_ly (s : State) : s.t11.ly = s.ly + 1 := by rw [State.t11_eq]
@[simp] theorem State.t12_mode (s : State) : s.t12.mode = .oamSearch := by rw [State.t12_eq]
@[simp] theorem State.t12_ly (s : State) : s.t12.ly = 0 := by rw [State.t12_eq]; rfl

/-- LY + 1 does not wrap below 255 (R15). -/
theorem toNat_add_one {ly : Byte} (h : ly.toNat < 255) : (ly + 1).toNat = ly.toNat + 1 := by
  bv_omega

/-! ### The range of LY -/

/-- A visible LY is in the range of every mode. -/
theorem lyOk_of_le {s : State} (h : s.ly.toNat ≤ 143) : s.LyOk := by
  unfold State.LyOk
  split <;> omega

/-- The LY invariant in VBlank. -/
theorem lyOk_of_vblank {s : State} (h : s.mode = .vblank) : s.LyOk ↔ s.ly.toNat ≤ 153 := by
  unfold State.LyOk
  rw [if_pos h]

/-- Outside VBlank LY is visible. -/
theorem State.LyOk.visible {s : State} (hs : s.LyOk) (h : s.mode ≠ .vblank) : s.ly.toNat ≤ 143 := by
  unfold State.LyOk at hs
  rwa [if_neg h] at hs

/-- The LY invariant reads the mode and LY only. -/
theorem lyOk_of_eq {s t : State} (hmode : t.mode = s.mode) (hly : t.ly = s.ly) (hs : s.LyOk) : t.LyOk := by
  unfold State.LyOk
  rw [hmode, hly]
  exact hs

/-- A bus write leaves mode and LY alone, or sets LY to 0 (R276, R284). -/
theorem WriteResult.lyOk {tg : Target} {d : Byte} {s t : State} (h : WriteResult tg d s t) (hs : s.LyOk) : t.LyOk := by
  have zero : t.ly = 0 → t.LyOk := fun hz => lyOk_of_le (by rw [hz]; decide)
  cases h with
  | registers h => exact lyOk_of_eq (by rw [h]) (by rw [h]) hs
  | restart _ _ h => exact zero (by rw [h, State.restart_eq]; rfl)
  | lineReset _ h => exact zero (by rw [h, State.checkLyc_eq])
  | colour _ h => exact lyOk_of_eq (by rw [h]) (by rw [h]) hs
  | vram _ h => rw [h]; exact hs
  | oam _ h => rw [h]; exact hs

/-- The transition the mode and LY select keeps LY in the range of the mode: a step past 143 enters VBlank, a step past
153 wraps to 0 (R149 to R152). -/
theorem transition_lyOk {s : State} (hs : s.LyOk) : s.transition.LyOk := by
  cases hm : s.mode with
  | oamSearch =>
    rw [transition_of_oamSearch hm]
    exact lyOk_of_le (by rw [State.t23_ly]; exact hs.visible (by simp [hm]))
  | pixelTransfer =>
    rw [transition_of_pixelTransfer hm]
    exact lyOk_of_le (by rw [State.t30_ly]; exact hs.visible (by simp [hm]))
  | hblank =>
    have hly := hs.visible (by simp [hm])
    rw [transition_of_hblank hm]
    split
    · exact lyOk_of_le (by rw [State.t02_ly, toNat_add_one] <;> omega)
    · exact (lyOk_of_vblank s.t01_mode).mpr (by rw [State.t01_ly, toNat_add_one] <;> omega)
  | vblank =>
    rw [transition_of_vblank hm]
    split
    · exact (lyOk_of_vblank (s.t11_mode.trans hm)).mpr (by rw [State.t11_ly, toNat_add_one] <;> omega)
    · exact lyOk_of_le (by rw [State.t12_ly]; decide)

/-- Each part of an instruction keeps LY in the range of the mode (R160). -/
theorem lyOk_keptByParts : KeptByParts State.LyOk where
  returnByte _ _ hs := hs
  write h hs := h.lyOk hs
  setAcc _ _ hs := hs
  transition _ hs := transition_lyOk hs
  renderLine s ly hs := by rw [s.renderLine_writes ly]; exact hs

/-- Settles O45: LY is only ever kept, set to 0 or stepped by the transition its value selects. -/
theorem stepKeepsLyRange : Obligations.StepKeepsLyRange :=
  fun _ _ hs h => lyOk_keptByParts.step (fun _ _ hs => hs) h hs

/-! ### The rows of the transitions -/

/-- The row the mode and LY select performs the transition (R122). -/
theorem exec_decodeSeq_selected (s : State) : exec (decodeSeq s.mode s.ly) s = .next s.transition := by
  cases hm : s.mode with
  | oamSearch => rw [transition_of_oamSearch hm]; exact if_pos hm
  | pixelTransfer => rw [transition_of_pixelTransfer hm]; exact if_pos hm
  | hblank =>
    rw [transition_of_hblank hm]
    unfold decodeSeq
    by_cases hl : s.ly.toNat + 1 < 144
    · simp only [if_pos hl]
      exact if_pos ⟨hm, hl⟩
    · simp only [if_neg hl]
      exact if_pos ⟨hm, Nat.not_lt.mp hl⟩
  | vblank =>
    rw [transition_of_vblank hm]
    unfold decodeSeq
    by_cases hl : s.ly.toNat + 1 ≤ 153
    · simp only [if_pos hl]
      exact if_pos ⟨hm, hl⟩
    · simp only [if_neg hl]
      exact if_pos ⟨hm, Nat.not_le.mp hl⟩

/-- The comparison of checkLYC with LY 0, the other way round. -/
theorem zero_beq_eq_decide (b : Byte) : ((0 : Byte) == b) = decide (b = 0) :=
  BEq.comm

/-- Settles O28: the row is the assignment of the mode. -/
theorem transitionT23 : Obligations.TransitionT23 :=
  fun _ hm => if_pos hm

/-- Settles O29: the form of `State.t30_eq`, with the bank of the bus window in numbers. -/
theorem transitionT30 : Obligations.TransitionT30 := by
  intro s hm
  refine ⟨s.t30, if_pos hm, ?_, fun hly => ⟨s.renderLine s.ly, if_pos (Nat.lt_succ_of_le hly), ?_⟩⟩
  · rw [State.t30_eq, State.statEnable_hblank]
    simp only [vramIndex_window, State.busBank_toNat]
  · rw [State.t30_eq]
    exact ⟨rfl, rfl, rfl, rfl⟩

/-- Settles O30: the form of `State.t02_eq`; the list is that of a search at LY + 1. -/
theorem transitionT02 : Obligations.TransitionT02 := by
  intro s hm hly
  refine ⟨s.t02, if_pos ⟨hm, hly⟩, ?_⟩
  rw [State.t02_eq, State.statEnable_lyc, State.statEnable_oam]
  exact ⟨oamSearch_listIsSearched { s with ly := s.ly + 1 }, rfl⟩

/-- Settles O31: the form of `State.t01_eq`. -/
theorem transitionT01 : Obligations.TransitionT01 := by
  intro s hm hly
  rw [← State.statEnable_lyc, ← State.statEnable_vblank]
  refine (if_pos ⟨hm, hly⟩ : exec .t01 s = .next s.t01).trans ?_
  rw [State.t01_eq, List.append_assoc _ [_] [_]]
  rfl

/-- Settles O32: the form of `State.t11_eq`. -/
theorem transitionT11 : Obligations.TransitionT11 := by
  intro s hm hly
  rw [← State.statEnable_lyc]
  refine (if_pos ⟨hm, hly⟩ : exec .t11 s = .next s.t11).trans ?_
  rw [State.t11_eq]
  rfl

/-- Settles O33: the form of `State.t12_eq`; the list is that of a search at LY 0. -/
theorem transitionT12 : Obligations.TransitionT12 := by
  intro s hm hly
  refine ⟨s.t12, if_pos ⟨hm, hly⟩, ?_⟩
  rw [State.t12_eq, State.statEnable_lyc, State.statEnable_oam, zero_beq_eq_decide]
  exact ⟨oamSearch_listIsSearched { s with ly := 0 }, rfl⟩

/-! ### The coincidence check -/

/-- `t` is left by an operation on `s` that ends an assignment to LY with checkLYC: the flag is LY == LYC, and the
operation emitted one LYC request at a match with the enable set, none otherwise (R153, R154). -/
structure LineChecked (s t : State) : Prop where
  flag : t.coincidence = decide (t.ly = t.lyc)
  request : ∃ rest : List Event, .irqStat .lyc ∉ rest ∧
    t.events = s.events ++ eventIf (decide (t.ly = t.lyc) && s.stat[6]) (.irqStat .lyc) ++ rest

/-- The number of times `eventIf` emits its event. -/
theorem count_eventIf_self (b : Bool) (e : Event) : (eventIf b e).count e = if b then 1 else 0 := by
  cases b <;> simp

/-- What `eventIf` emits is its event. -/
theorem mem_eventIf {b : Bool} {e f : Event} (h : f ∈ eventIf b e) : f = e := by
  cases b
  · cases h
  · exact List.mem_singleton.mp h

/-- The new events of a checked assignment hold one LYC request at a match with the enable set. -/
theorem LineChecked.new_events {s t : State} (h : LineChecked s t) : ∃ new : List Event,
    t.events = s.events ++ new ∧ new.count (.irqStat .lyc) = if t.ly = t.lyc ∧ s.stat[6] = true then 1 else 0 := by
  obtain ⟨rest, hrest, hevents⟩ := h.request
  refine ⟨_, hevents.trans (List.append_assoc _ _ _), ?_⟩
  rw [List.count_append, count_eventIf_self, List.count_eq_zero.mpr hrest]
  simp

/-- checkLYC in the statements' words (R153). -/
theorem State.checkLyc_spec (s : State) : s.checkLyc = { s with
    coincidence := decide (s.ly = s.lyc)
    events := s.events ++ eventIf (decide (s.ly = s.lyc) && s.stat[6]) (.irqStat .lyc) } := by
  rw [State.checkLyc_eq, State.statEnable_lyc]
  rfl

/-- An LY write ends with checkLYC (R284). -/
theorem lineReset_lineChecked (s : State) : LineChecked s ({ s with ly := 0, windowLine := 0 }).checkLyc := by
  rw [State.checkLyc_spec]
  exact ⟨rfl, [], List.not_mem_nil, (List.append_nil _).symm⟩

/-- A restart ends with checkLYC and emits no other event (R162). -/
theorem restart_lineChecked (s : State) (d : Byte) : LineChecked s ({ s with lcdc := d }).restart := by
  rw [State.restart_eq, State.statEnable_lyc]
  exact ⟨rfl, [], List.not_mem_nil, (List.append_nil _).symm⟩

/-- Every transition of modes 0 and 1 steps LY with checkLYC (R149 to R152). -/
theorem transition_lineChecked {s : State} (hm : s.mode = .hblank ∨ s.mode = .vblank) :
    LineChecked s s.transition := by
  have other : ∀ (b : Bool) (src : StatSource), src ≠ .lyc → .irqStat .lyc ∉ eventIf b (.irqStat src) :=
    fun b src hsrc h => hsrc (Event.irqStat.inj (mem_eventIf h)).symm
  rcases hm with hm | hm
  · rw [transition_of_hblank hm]
    split
    · rw [State.t02_eq, State.statEnable_lyc]
      exact ⟨rfl, _, other _ .oam (by decide), rfl⟩
    · rw [State.t01_eq, State.statEnable_lyc]
      refine ⟨rfl, eventIf (s.statEnable .vblank) (.irqStat .vblank) ++ [Event.irqVblank, Event.frameReady], ?_, ?_⟩
      · simpa using other _ .vblank (by decide)
      · simp only [List.append_assoc, List.singleton_append]
        rfl
  · rw [transition_of_vblank hm]
    split
    · rw [State.t11_eq, State.statEnable_lyc]
      exact ⟨rfl, [], List.not_mem_nil, (List.append_nil _).symm⟩
    · rw [State.t12_eq, State.statEnable_lyc]
      exact ⟨rfl, _, other _ .oam (by decide), rfl⟩

/-- A bus write keeps LY or leaves the flag LY == LYC (R276, R284). -/
theorem WriteResult.lyKept_or_checked {tg : Target} {d : Byte} {s t : State} (h : WriteResult tg d s t) :
    t.ly = s.ly ∨ t.coincidence = decide (t.ly = t.lyc) := by
  cases h with
  | registers h => exact .inl (by rw [h])
  | restart _ _ h => exact .inr (by rw [h]; exact (restart_lineChecked s d).flag)
  | lineReset _ h => exact .inr (by rw [h]; exact (lineReset_lineChecked s).flag)
  | colour _ h => exact .inl (by rw [h])
  | vram _ h => exact .inl (by rw [h]; rfl)
  | oam _ h => exact .inl (by rw [h]; rfl)

/-- A transition leaves the flag LY == LYC, or it keeps LY, LYC and the flag. -/
theorem transition_checked_or_kept (s : State) :
    s.transition.coincidence = decide (s.transition.ly = s.transition.lyc) ∨
    s.transition.ly = s.ly ∧ s.transition.lyc = s.lyc ∧ s.transition.coincidence = s.coincidence := by
  cases hm : s.mode with
  | oamSearch => rw [transition_of_oamSearch hm]; exact .inr ⟨rfl, rfl, rfl⟩
  | pixelTransfer =>
    rw [transition_of_pixelTransfer hm, State.t30_eq, State.renderLine_writes]
    exact .inr ⟨rfl, rfl, rfl⟩
  | hblank => exact .inl (transition_lineChecked (.inl hm)).flag
  | vblank => exact .inl (transition_lineChecked (.inr hm)).flag

/-- `advance` keeps LY or leaves the flag LY == LYC (R154). -/
theorem advance_lyKept_or_checked (s : State) (d : Nat) :
    (s.advance d).ly = s.ly ∨ (s.advance d).coincidence = decide ((s.advance d).ly = (s.advance d).lyc) := by
  refine runTurns_induction (P := fun u => u.ly = s.ly ∨ u.coincidence = decide (u.ly = u.lyc)) ?_ (.inl rfl)
  intro u _ hu
  rw [turn_eq]
  rcases transition_checked_or_kept u with hflag | ⟨hly, hlyc, hflag⟩
  · exact .inr hflag
  · dsimp only
    rw [hly, hlyc, hflag]
    exact hu

/-- A port operation keeps LY or leaves the flag LY == LYC. -/
theorem PortResult.lyKept_or_checked {s t : State} (h : PortResult s t) :
    t.ly = s.ly ∨ t.coincidence = decide (t.ly = t.lyc) := by
  cases h with
  | returned b h => exact .inl (by rw [h]; rfl)
  | written _ _ h => exact h.lyKept_or_checked
  | advanced d h => rw [h]; exact advance_lyKept_or_checked s d
  | rendered ly h => exact .inl (by rw [h, State.renderLine_writes])

/-- An assignment to LY, by the selected transition, an LY write or an LCDC.7 edge, completes with checkLYC. -/
theorem exec_lineChecked {s : State} {i : Instr}
    (h : (s.mode = .hblank ∨ s.mode = .vblank) ∧ i = decodeSeq s.mode s.ly ∨
      (∃ d : Byte, i = .writeLy d) ∨ (∃ d : Byte, i = .writeLcdc d ∧ d[7] ≠ s.lcdc[7])) :
    ∃ t : State, exec i s = .next t ∧ LineChecked s t := by
  rcases h with ⟨hm, rfl⟩ | ⟨d, rfl⟩ | ⟨d, rfl, hedge⟩
  · exact ⟨_, exec_decodeSeq_selected s, transition_lineChecked hm⟩
  · exact ⟨_, rfl, lineReset_lineChecked s⟩
  · refine ⟨_, exec_writeLcdc d s, ?_⟩
    rw [if_neg (Ne.symm hedge)]
    exact restart_lineChecked s d

/-- Settles O27: checkLYC ends every assignment to LY, and nothing else changes LY. -/
theorem coincidenceOnEveryLineTransition : Obligations.CoincidenceOnEveryLineTransition := by
  refine ⟨State.checkLyc_spec, fun s i hi => ?_, fun i s t h hne => ?_⟩
  · obtain ⟨t, ht, hline⟩ := exec_lineChecked hi
    obtain ⟨new, hnew, hcount⟩ := hline.new_events
    exact ⟨t, new, ht, hnew, hline.flag, hcount⟩
  · rcases exec_cases h with hport | ⟨-, rfl | rfl⟩
    · exact hport.lyKept_or_checked.resolve_left hne
    · exact absurd rfl hne
    · exact (transition_checked_or_kept s).resolve_right fun hkept => hne hkept.1

/-! ### The loop of advance as equations -/

/-- Below the mode's duration `advance` only counts (R142). -/
theorem advance_of_lt {s : State} {d : Nat} (h : s.acc + d < duration s.mode) :
    s.advance d = { s with acc := s.acc + d } :=
  runTurns_done h _

/-- Without dots a state that meets the carry invariant stays as it is. -/
theorem advance_zero {s : State} (h : s.CarryOk) : s.advance 0 = s :=
  advance_of_lt h

/-- At or above the mode's duration `advance` takes it off, performs the transition and goes on (R142). -/
theorem advance_of_le {s : State} {d : Nat} (h : duration s.mode ≤ s.acc + d) :
    s.advance d = ({ s.transition with acc := s.acc + d - duration s.mode }).advance 0 := by
  have hdur := duration_ge s.mode
  obtain ⟨n, hn⟩ : ∃ n, (s.acc + d) / 80 = n + 1 := ⟨(s.acc + d) / 80 - 1, by omega⟩
  unfold State.advance
  rw [hn, runTurns_succ (s := { s with acc := s.acc + d }) h, turn_eq, transition_setAcc]
  exact runTurns_enough (by dsimp only; omega) le_rfl

/-- Only the sum of the accumulator and the dots counts. -/
theorem setAcc_advance {s : State} {x y d e : Nat} (h : x + d = y + e) :
    ({ s with acc := x }).advance d = ({ s with acc := y }).advance e := by
  show State.runTurns ((x + d) / 80) { s with acc := x + d } = State.runTurns ((y + e) / 80) { s with acc := y + e }
  rw [h]

/-- The carry is associative (R145). -/
theorem advance_add (s : State) (a b : Nat) : (s.advance a).advance b = s.advance (a + b) := by
  induction hn : s.acc + a using Nat.strong_induction_on generalizing s a with
  | _ n ih =>
    by_cases h : duration s.mode ≤ s.acc + a
    · have hdur := duration_pos s.mode
      rw [advance_of_le h, ih (s.acc + a - duration s.mode) (by omega) _ 0 rfl, advance_of_le (d := a + b) (by omega)]
      exact setAcc_advance (by omega)
    · rw [advance_of_lt (Nat.not_le.mp h)]
      exact setAcc_advance (Nat.add_assoc ..)

/-- Dots that end the mode bring its transition, at dot 0 of the next mode; the rest count from there. -/
theorem advance_through {s : State} {d e : Nat} (h : s.acc + d = duration s.mode + e) :
    s.advance d = ({ s.transition with acc := 0 }).advance e := by
  rw [advance_of_le (by omega)]
  exact setAcc_advance (by omega)

/-- Settles O34: one turn of the loop. -/
theorem advanceLoop : Obligations.AdvanceLoop := by
  refine fun s d => ⟨⟨_, rfl⟩, fun h => congrArg _ (advance_of_lt h), fun h => ⟨_, ?_, congrArg _ (advance_of_le h)⟩⟩
  rw [← transition_setAcc]
  exact exec_decodeSeq_selected { s with acc := s.acc + d - duration s.mode }

/-- Settles O36: the carry is associative. -/
theorem carryAssociativity : Obligations.CarryAssociativity :=
  fun s a b => ⟨_, rfl, congrArg _ (advance_add s a b)⟩

/-! ### Dot by dot -/

/-- A render reads nothing of the queue. -/
theorem State.renderLine_setPending (s : State) (ops : List PortOp) (ly : Byte) :
    ({ s with pending := ops }).renderLine ly = { s.renderLine ly with pending := ops } := by
  unfold State.renderLine
  change (if s.displayOn then _ else _) = _
  split <;> rfl

/-- The four modes, as equations. -/
theorem mode_cases (m : Mode) : m = .oamSearch ∨ m = .pixelTransfer ∨ m = .hblank ∨ m = .vblank := by
  cases m <;> simp

/-- A transition reads nothing of the queue. -/
theorem transition_setPending (s : State) (ops : List PortOp) :
    ({ s with pending := ops }).transition = { s.transition with pending := ops } := by
  rcases mode_cases s.mode with hm | hm | hm | hm
  · rw [transition_of_oamSearch (s := { s with pending := ops }) hm, transition_of_oamSearch hm]
    rfl
  · rw [transition_of_pixelTransfer (s := { s with pending := ops }) hm, transition_of_pixelTransfer hm, State.t30_eq,
      State.t30_eq, State.renderLine_setPending]
    rfl
  · rw [transition_of_hblank (s := { s with pending := ops }) hm, transition_of_hblank hm]
    change (if s.ly.toNat + 1 < 144 then _ else _) = _
    split
    · rw [State.t02_eq, State.t02_eq]; rfl
    · rw [State.t01_eq, State.t01_eq]; rfl
  · rw [transition_of_vblank (s := { s with pending := ops }) hm, transition_of_vblank hm]
    change (if s.ly.toNat + 1 ≤ 153 then _ else _) = _
    split
    · rw [State.t11_eq, State.t11_eq]; rfl
    · rw [State.t12_eq, State.t12_eq]; rfl

/-- The loop reads nothing of the queue. -/
theorem runTurns_setPending (n : Nat) (s : State) (ops : List PortOp) :
    State.runTurns n { s with pending := ops } = { State.runTurns n s with pending := ops } := by
  induction n generalizing s with
  | zero => rfl
  | succ n ih =>
    by_cases h : duration s.mode ≤ s.acc
    · rw [runTurns_succ h, runTurns_succ (s := { s with pending := ops }) h, turn_eq, turn_eq, transition_setPending]
      exact ih { s.transition with acc := s.acc - duration s.mode }
    · rw [runTurns_done (s := s) (Nat.not_le.mp h)]
      exact runTurns_done (s := { s with pending := ops }) (Nat.not_le.mp h) _

/-- `advance` reads nothing of the queue. -/
theorem advance_setPending (s : State) (ops : List PortOp) (d : Nat) :
    ({ s with pending := ops }).advance d = { s.advance d with pending := ops } :=
  runTurns_setPending _ { s with acc := s.acc + d } ops

/-- A step with an `advance(1)` waiting counts one dot. -/
theorem step_advance_one (s : State) (ops : List PortOp) :
    step { s with pending := .advance 1 :: ops } = .next { s.advance 1 with pending := ops } := by
  rw [step_of_pending_cons (s := { s with pending := .advance 1 :: ops }) rfl, ← advance_setPending]
  rfl

/-- A run whose first step completes is the run of the other steps from there. -/
theorem run_succ (k : Nat) {s t : State} (h : step s = .next t) :
    Host.Core.run Sys2Proof.core (k + 1) s = Host.Core.run Sys2Proof.core k t := by
  have run_succ_of_core : ∀ (M : Host.Core) (u v : M.State), M.step u = .next v → M.run (k + 1) u = M.run k v :=
    fun M u v huv => by rw [Host.Core.run, huv]
  exact run_succ_of_core Sys2Proof.core s t h

/-- Settles O37: one step takes one dot, and the carry is associative. -/
theorem dotClocked : Obligations.DotClocked := by
  intro s d hs
  induction d generalizing s with
  | zero =>
    show Host.Outcome.next { s with pending := [] } = .next (({ s with pending := [] }).advance 0)
    rw [advance_zero (s := { s with pending := [] }) hs]
  | succ d ih =>
    refine (run_succ d (step_advance_one s (List.replicate d (.advance 1)))).trans ?_
    rw [ih _ (advance_carryOk s 1)]
    show Host.Outcome.next _ = .next _
    rw [← advance_setPending, advance_add, Nat.add_comm]

/-! ### What advance leaves alone -/

/-- What `advance` leaves alone: the fields in `unwritten`; of VRAM every byte no waiting hook write names; the hook
writes still waiting, which are the last of those before; and the events already emitted. -/
structure SoftwareKept (s t : State) : Prop where
  unwritten : t = { t with
    cfg := s.cfg, lcdc := s.lcdc, statHi := s.statHi, lyc := s.lyc, scy := s.scy, scx := s.scx, wy := s.wy, wx := s.wx
    bgp := s.bgp, obp0 := s.obp0, obp1 := s.obp1, vbk := s.vbk, bcps := s.bcps, ocps := s.ocps, bgPal := s.bgPal
    objPal := s.objPal, oam := s.oam, pending := s.pending, reads := s.reads }
  hookWrites : t.hookWrites <:+ s.hookWrites
  vram_of_nil : s.hookWrites = [] → t.vram = s.vram
  vram_read : ∀ a : Nat, (∀ ws ∈ s.hookWrites, ∀ w ∈ ws, a ≠ vramIndex s.busBank w.1.toNat) →
    t.vram.read a = s.vram.read a
  events : s.events <+: t.events

theorem SoftwareKept.refl (s : State) : SoftwareKept s s :=
  ⟨rfl, List.suffix_rfl, fun _ => rfl, fun _ _ => rfl, List.prefix_rfl⟩

theorem SoftwareKept.trans {s t u : State} (h : SoftwareKept s t) (k : SoftwareKept t u) : SoftwareKept s u where
  unwritten := by rw [k.unwritten, h.unwritten]
  hookWrites := k.hookWrites.trans h.hookWrites
  vram_of_nil hnil := (k.vram_of_nil (List.suffix_nil.mp (hnil ▸ h.hookWrites))).trans (h.vram_of_nil hnil)
  vram_read a ha := by
    have hbank : t.busBank = s.busBank := by rw [h.unwritten]; rfl
    exact (k.vram_read a fun ws hws => hbank ▸ ha ws (h.hookWrites.subset hws)).trans (h.vram_read a ha)
  events := h.events.trans k.events

/-- A transition takes at most one list off the waiting hook writes (R148; log entry 5). -/
theorem transition_hookWrites (s : State) :
    s.transition.hookWrites = s.hookWrites ∨ s.transition.hookWrites = s.hookWrites.tail := by
  rcases transition_cases s with h | h | h | h | h | h <;> rw [h]
  · exact .inl rfl
  · exact .inr (by rw [State.t30_eq])
  · exact .inl (by rw [State.t02_eq]; rfl)
  · exact .inl (by rw [State.t01_eq])
  · exact .inl (by rw [State.t11_eq])
  · exact .inl (by rw [State.t12_eq]; rfl)

/-- A transition only appends events. -/
theorem transition_events (s : State) : s.events <+: s.transition.events := by
  rcases transition_cases s with h | h | h | h | h | h <;> rw [h]
  · exact List.prefix_rfl
  · rw [State.t30_eq]; simp
  · rw [State.t02_eq]; simp
  · rw [State.t01_eq]; simp
  · rw [State.t11_eq]; simp
  · rw [State.t12_eq]; simp

/-- A transition leaves alone what `advance` does. -/
theorem transition_softwareKept (s : State) : SoftwareKept s s.transition where
  unwritten := by rw [transition_writes]
  hookWrites := by
    rcases transition_hookWrites s with h | h <;> rw [h]
    exact List.tail_suffix _
  vram_of_nil hnil := by
    rcases transition_vram s with h | h <;> rw [h]
    rw [hnil]
    rfl
  vram_read a ha := by
    rcases transition_vram s with h | h <;> rw [h]
    refine hookWrites_read_other (fun w => vramIndex s.busBank w.1.toNat) _ _ fun w hw => ?_
    cases hq : s.hookWrites with
    | nil => rw [hq] at hw; cases hw
    | cons ws rest =>
      rw [hq] at hw ha
      exact ha ws (by simp) w hw
  events := transition_events s

/-- Setting the accumulator leaves alone what `advance` does. -/
theorem SoftwareKept.setAcc {s t : State} (h : SoftwareKept s t) (n : Nat) : SoftwareKept s { t with acc := n } :=
  h.trans ⟨rfl, List.suffix_rfl, fun _ => rfl, fun _ _ => rfl, List.prefix_rfl⟩

theorem advance_softwareKept (s : State) (d : Nat) : SoftwareKept s (s.advance d) := by
  refine runTurns_induction (fun u _ hu => ?_) ((SoftwareKept.refl s).setAcc (s.acc + d))
  rw [turn_eq]
  exact (hu.trans (transition_softwareKept u)).setAcc _

/-- Settles O35: what every transition leaves alone, with the address of a hook write in numbers. -/
theorem advanceFrame : Obligations.AdvanceFrame := by
  intro s d
  obtain ⟨hkept, -, hnil, hread, new, hnew⟩ := advance_softwareKept s d
  simp only [vramIndex_window, State.busBank_toNat] at hread
  refine ⟨s.advance d, new, rfl, ?_⟩
  refine ⟨?_, ?_, ?_, ?_, ?_, ?_, ?_, ?_, ?_, ?_, ?_, ?_, ?_, ?_, ?_, ?_, ?_, ?_, ?_, hnil, hread, hnew.symm⟩ <;>
    rw [hkept]

/-! ### The events of a frame -/

/-- The events other than STAT requests, which depend on the enables: those a frame's progress shows in. -/
def isFrameEvent : Event → Bool
  | .irqStat _ => false
  | .irqVblank | .lineReady _ | .frameReady | .hdmaHblank => true

/-- The events emitted so far but the STAT requests. -/
def State.frameEvents (s : State) : List Event := s.events.filter isFrameEvent

/-- What the end of mode 3 on line `n` emits but the STAT requests (R148). -/
def lineEvents (n : Nat) : List Event := [.lineReady (BitVec.ofNat 8 n), .hdmaHblank]

/-- What the entry to VBlank emits but the STAT requests (R150). -/
def vblankEvents : List Event := [.irqVblank, .frameReady]

theorem filter_isFrameEvent_irqStat (b : Bool) (src : StatSource) :
    (eventIf b (.irqStat src)).filter isFrameEvent = [] := by
  cases b <;> rfl

theorem State.t30_frameEvents (s : State) : s.t30.frameEvents = s.frameEvents ++ lineEvents s.ly.toNat := by
  rw [State.t30_eq]
  simp [State.frameEvents, filter_isFrameEvent_irqStat, lineEvents, List.filter_cons, isFrameEvent]

theorem State.t02_frameEvents (s : State) : s.t02.frameEvents = s.frameEvents := by
  rw [State.t02_eq]
  simp [State.frameEvents, filter_isFrameEvent_irqStat]

theorem State.t01_frameEvents (s : State) : s.t01.frameEvents = s.frameEvents ++ vblankEvents := by
  rw [State.t01_eq]
  simp [State.frameEvents, filter_isFrameEvent_irqStat, vblankEvents, isFrameEvent]

theorem State.t11_frameEvents (s : State) : s.t11.frameEvents = s.frameEvents := by
  rw [State.t11_eq]
  simp [State.frameEvents, filter_isFrameEvent_irqStat]

theorem State.t12_frameEvents (s : State) : s.t12.frameEvents = s.frameEvents := by
  rw [State.t12_eq]
  simp [State.frameEvents, filter_isFrameEvent_irqStat]

/-- The LINE_READY events are among those `isFrameEvent` keeps. -/
theorem filter_isLineReady_isFrameEvent (l : List Event) :
    (l.filter isFrameEvent).filter isLineReady = l.filter isLineReady := by
  rw [List.filter_filter]
  refine List.filter_congr fun e _ => ?_
  cases e <;> rfl

/-! ### From one mode to the next -/

/-- The state at dot 0 of the mode that follows. -/
def State.nextMode (s : State) : State := { s.transition with acc := 0 }

/-- The transitions of VBlank render nothing (R151, R152). -/
theorem nextMode_frame_of_vblank {s : State} (h : s.mode = .vblank) : s.nextMode.frame = s.frame := by
  show s.transition.frame = s.frame
  rw [transition_of_vblank h]
  split
  · rw [State.t11_eq]
  · rw [State.t12_eq]; rfl

/-- `s` is at dot 0 of mode `m` on line `n`, and `ev` is what it has emitted but the STAT requests. -/
structure AtStart (s : State) (m : Mode) (n : Nat) (ev : List Event) : Prop where
  mode : s.mode = m
  acc : s.acc = 0
  line : s.ly.toNat = n
  events : s.frameEvents = ev

/-- A transition ends at dot 0 of the mode it enters. -/
theorem atStart_nextMode {s t : State} {m : Mode} {n : Nat} {ev : List Event} (h : s.transition = t)
    (hmode : t.mode = m) (hline : t.ly.toNat = n) (hevents : t.frameEvents = ev) : AtStart s.nextMode m n ev := by
  subst h
  exact ⟨hmode, rfl, hline, hevents⟩

section
variable {s : State} {n : Nat} {ev : List Event}

/-- Before the mode ends only the dots are counted. -/
theorem AtStart.advance_lt {m : Mode} (h : AtStart s m n ev) {d : Nat} (hd : d < duration m) :
    s.advance d = { s with acc := d } := by
  rw [advance_of_lt (by rw [h.acc, h.mode]; omega), h.acc, Nat.zero_add]

theorem AtStart.carryOk {m : Mode} (h : AtStart s m n ev) : s.CarryOk := by
  unfold State.CarryOk
  rw [h.acc]
  exact duration_pos _

/-- The dots past the mode count in the next one. -/
theorem AtStart.advance_past {m : Mode} (h : AtStart s m n ev) {d e : Nat} (hd : d = duration m + e) :
    s.advance d = s.nextMode.advance e :=
  advance_through (by rw [h.acc, h.mode, Nat.zero_add, hd])

/-- The dots of the mode end at dot 0 of the next one. -/
theorem AtStart.advance_duration {m : Mode} (h : AtStart s m n ev) : s.advance (duration m) = s.nextMode :=
  (h.advance_past (e := 0) rfl).trans (advance_zero (duration_pos _))

/-- Mode 3 follows mode 2 (R147). -/
theorem AtStart.pixelTransfer (h : AtStart s .oamSearch n ev) : AtStart s.nextMode .pixelTransfer n ev :=
  atStart_nextMode (transition_of_oamSearch h.mode) s.t23_mode (by rw [State.t23_ly, h.line]) h.events

/-- Mode 0 follows mode 3, with the line rendered and the hook called (R148). -/
theorem AtStart.hblank (h : AtStart s .pixelTransfer n ev) : AtStart s.nextMode .hblank n (ev ++ lineEvents n) :=
  atStart_nextMode (transition_of_pixelTransfer h.mode) s.t30_mode (by rw [State.t30_ly, h.line])
    (by rw [State.t30_frameEvents, h.events, h.line])

/-- The next visible line follows mode 0 above line 143 (R149). -/
theorem AtStart.nextLine (h : AtStart s .hblank n ev) (hn : n < 143) : AtStart s.nextMode .oamSearch (n + 1) ev := by
  have hline := h.line
  exact atStart_nextMode ((transition_of_hblank h.mode).trans (if_pos (by omega))) s.t02_mode
    (by rw [State.t02_ly, toNat_add_one (by omega), hline]) (by rw [State.t02_frameEvents, h.events])

/-- VBlank follows mode 0 of line 143 (R150). -/
theorem AtStart.enterVblank (h : AtStart s .hblank 143 ev) : AtStart s.nextMode .vblank 144 (ev ++ vblankEvents) := by
  have hline := h.line
  exact atStart_nextMode ((transition_of_hblank h.mode).trans (if_neg (by omega))) s.t01_mode
    (by rw [State.t01_ly, toNat_add_one (by omega), hline]) (by rw [State.t01_frameEvents, h.events])

/-- The next VBlank line follows one above line 153 (R151). -/
theorem AtStart.nextVblankLine (h : AtStart s .vblank n ev) (hn : n < 153) :
    AtStart s.nextMode .vblank (n + 1) ev := by
  have hline := h.line
  exact atStart_nextMode ((transition_of_vblank h.mode).trans (if_pos (by omega))) (by rw [State.t11_mode, h.mode])
    (by rw [State.t11_ly, toNat_add_one (by omega), hline]) (by rw [State.t11_frameEvents, h.events])

/-- The frame wraps after line 153 (R152). -/
theorem AtStart.wrap (h : AtStart s .vblank 153 ev) :
    AtStart s.nextMode .oamSearch 0 ev ∧ s.nextMode.windowLine = 0 := by
  have hline := h.line
  have ht12 : s.transition = s.t12 := (transition_of_vblank h.mode).trans (if_neg (by omega))
  refine ⟨atStart_nextMode ht12 s.t12_mode (by rw [State.t12_ly]; rfl) (by rw [State.t12_frameEvents, h.events]), ?_⟩
  show s.transition.windowLine = 0
  rw [ht12, State.t12_eq]

/-! ### Line by line -/

/-- A visible line is 80 dots of mode 2, 172 of mode 3 and 204 of mode 0 (R140, R161). -/
theorem AtStart.advance_line (h : AtStart s .oamSearch n ev) : s.advance 456 = s.nextMode.nextMode.nextMode :=
  calc s.advance 456 = s.nextMode.advance 376 := h.advance_past rfl
    _ = s.nextMode.nextMode.advance 204 := h.pixelTransfer.advance_past rfl
    _ = s.nextMode.nextMode.nextMode := h.pixelTransfer.hblank.advance_duration

/-- A visible line above line 143 ends at the start of the next one. -/
theorem AtStart.visibleLine (h : AtStart s .oamSearch n ev) (hn : n < 143) :
    AtStart (s.advance 456) .oamSearch (n + 1) (ev ++ lineEvents n) := by
  rw [h.advance_line]
  exact h.pixelTransfer.hblank.nextLine hn

/-- Line 143 ends at the start of VBlank. -/
theorem AtStart.lastVisibleLine (h : AtStart s .oamSearch 143 ev) :
    AtStart (s.advance 456) .vblank 144 (ev ++ lineEvents 143 ++ vblankEvents) := by
  rw [h.advance_line]
  exact h.pixelTransfer.hblank.enterVblank

/-- A VBlank line is 456 dots of mode 1 (R140, R161). -/
theorem AtStart.advance_vblankLine (h : AtStart s .vblank n ev) : s.advance 456 = s.nextMode :=
  h.advance_duration

/-- A VBlank line above line 153 ends at the start of the next one, without rendering. -/
theorem AtStart.vblankLine (h : AtStart s .vblank n ev) (hn : n < 153) :
    AtStart (s.advance 456) .vblank (n + 1) ev ∧ (s.advance 456).frame = s.frame := by
  rw [h.advance_vblankLine]
  exact ⟨h.nextVblankLine hn, nextMode_frame_of_vblank h.mode⟩

/-- Line 153 ends at the start of a frame, without rendering. -/
theorem AtStart.lastVblankLine (h : AtStart s .vblank 153 ev) : AtStart (s.advance 456) .oamSearch 0 ev ∧
    (s.advance 456).windowLine = 0 ∧ (s.advance 456).frame = s.frame := by
  obtain ⟨hwrap, hwindow⟩ := h.wrap
  rw [h.advance_vblankLine]
  exact ⟨hwrap, hwindow, nextMode_frame_of_vblank h.mode⟩

/-- The next `k` VBlank lines, without rendering. -/
theorem AtStart.vblankLines (h : AtStart s .vblank n ev) (k : Nat) (hk : n + k ≤ 153) :
    AtStart (s.advance (456 * k)) .vblank (n + k) ev ∧ (s.advance (456 * k)).frame = s.frame := by
  induction k with
  | zero =>
    rw [Nat.mul_zero, advance_zero h.carryOk]
    exact ⟨h, rfl⟩
  | succ k ih =>
    obtain ⟨hlines, hframe⟩ := ih (by omega)
    obtain ⟨hnext, hsame⟩ := hlines.vblankLine (by omega)
    rw [Nat.mul_succ, ← advance_add]
    exact ⟨hnext, hsame.trans hframe⟩

/-! ### A frame -/

/-- What the first `k` visible lines of a frame emit but the STAT requests. -/
def visibleLineEvents (k : Nat) : List Event := (List.range k).flatMap lineEvents

theorem visibleLineEvents_succ (k : Nat) : visibleLineEvents (k + 1) = visibleLineEvents k ++ lineEvents k := by
  simp [visibleLineEvents, List.range_succ]

theorem irqVblank_notMem_visibleLineEvents (k : Nat) : .irqVblank ∉ visibleLineEvents k := by
  simp [visibleLineEvents, lineEvents]

theorem frameReady_notMem_visibleLineEvents (k : Nat) : .frameReady ∉ visibleLineEvents k := by
  simp [visibleLineEvents, lineEvents]

/-- One hook call a line. -/
theorem count_hdmaHblank_visibleLineEvents (k : Nat) : (visibleLineEvents k).count .hdmaHblank = k := by
  induction k with
  | zero => rfl
  | succ k ih => rw [visibleLineEvents_succ, List.count_append, ih]; rfl

/-- One LINE_READY a line, in order. -/
theorem filter_isLineReady_visibleLineEvents (k : Nat) :
    (visibleLineEvents k).filter isLineReady = (List.range k).map fun j => .lineReady (BitVec.ofNat 8 j) := by
  induction k with
  | zero => rfl
  | succ k ih => rw [visibleLineEvents_succ, List.filter_append, ih, List.range_succ, List.map_append]; rfl

/-- The first `k` visible lines of a frame. -/
theorem AtStart.visibleLines (h : AtStart s .oamSearch 0 ev) (k : Nat) (hk : k ≤ 143) :
    AtStart (s.advance (456 * k)) .oamSearch k (ev ++ visibleLineEvents k) := by
  induction k with
  | zero =>
    rw [Nat.mul_zero, advance_zero h.carryOk]
    exact (List.append_nil ev).symm ▸ h
  | succ k ih =>
    rw [Nat.mul_succ, ← advance_add, visibleLineEvents_succ, ← List.append_assoc]
    exact (ih (by omega)).visibleLine (by omega)

/-- A frame is 144 visible lines and 10 VBlank lines of 456 dots (R165). -/
theorem AtStart.wholeFrame (h : AtStart s .oamSearch 0 ev) :
    AtStart (s.advance 70224) .oamSearch 0 (ev ++ (visibleLineEvents 144 ++ vblankEvents)) ∧
      (s.advance 70224).windowLine = 0 := by
  have hvblank := (h.visibleLines 143 le_rfl).lastVisibleLine
  obtain ⟨hlast, -⟩ := hvblank.vblankLines 9 (by decide)
  obtain ⟨hend, hwindow, -⟩ := hlast.lastVblankLine
  rw [advance_add, advance_add, advance_add] at hend hwindow
  rw [visibleLineEvents_succ, ← List.append_assoc, ← List.append_assoc]
  exact ⟨hend, hwindow⟩

end

/-- Settles O38: mode by mode over a visible line, and in one mode over a VBlank line. -/
theorem lineDuration : Obligations.LineDuration := by
  refine ⟨fun s hm ha hly => ?_, fun s hm ha hly => ?_⟩
  · have hstart : AtStart s .oamSearch s.ly.toNat s.frameEvents := ⟨hm, ha, rfl, rfl⟩
    have h3 := hstart.pixelTransfer
    have h0 := h3.hblank
    refine ⟨fun d hd => ⟨_, rfl, ?_⟩, _, rfl, ?_⟩
    · split_ifs with h80 h252
      · rw [hstart.advance_lt h80]
        exact ⟨rfl, congrArg (·, d) hm⟩
      · rw [hstart.advance_past (show d = 80 + (d - 80) by omega), h3.advance_lt (show d - 80 < 172 by omega)]
        exact ⟨BitVec.eq_of_toNat_eq h3.line, congrArg (·, d - 80) h3.mode⟩
      · rw [hstart.advance_past (show d = 80 + (d - 80) by omega),
          h3.advance_past (show d - 80 = 172 + (d - 252) by omega), h0.advance_lt (show d - 252 < 204 by omega)]
        exact ⟨BitVec.eq_of_toNat_eq h0.line, congrArg (·, d - 252) h0.mode⟩
    · by_cases hlast : s.ly.toNat = 143
      · have hend := (hlast ▸ hstart).lastVisibleLine
        rw [if_pos hlast, hlast]
        exact ⟨hend.acc, hend.line, hend.mode⟩
      · have hend := hstart.visibleLine (by omega)
        rw [if_neg hlast]
        exact ⟨hend.acc, hend.line, hend.mode⟩
  · have hstart : AtStart s .vblank s.ly.toNat s.frameEvents := ⟨hm, ha, rfl, rfl⟩
    obtain ⟨hend, -⟩ := hstart.vblankLine (by omega)
    refine ⟨fun d hd => ⟨_, rfl, ?_⟩, _, rfl, hend.acc, hend.line, hend.mode⟩
    rw [hstart.advance_lt hd]
    exact ⟨rfl, hm, rfl⟩

/-- Settles O39: the frame's lines in order; a STAT request is none of the events counted. -/
theorem frameOfEvents : Obligations.FrameOfEvents := by
  intro s hm ha hly
  have hstart : AtStart s .oamSearch 0 s.frameEvents := ⟨hm, ha, by rw [hly]; rfl, rfl⟩
  obtain ⟨hend, hwindow⟩ := hstart.wholeFrame
  obtain ⟨new, hnew⟩ := (advance_softwareKept s 70224).events
  have hfilter : new.filter isFrameEvent = visibleLineEvents 144 ++ vblankEvents := by
    have hevents := hend.events
    rw [State.frameEvents, ← hnew, List.filter_append] at hevents
    exact List.append_cancel_left hevents
  have hcount : ∀ e, isFrameEvent e = true →
      new.count e = (visibleLineEvents 144).count e + vblankEvents.count e := fun e he => by
    rw [← List.count_filter he, hfilter, List.count_append]
  refine ⟨_, new, rfl, hend.mode, hend.acc, BitVec.eq_of_toNat_eq hend.line, hwindow, hnew.symm, ?_, ?_, ?_, ?_⟩
  · rw [hcount _ rfl, List.count_eq_zero.mpr (irqVblank_notMem_visibleLineEvents 144)]
    rfl
  · rw [hcount _ rfl, List.count_eq_zero.mpr (frameReady_notMem_visibleLineEvents 144)]
    rfl
  · rw [hcount _ rfl, count_hdmaHblank_visibleLineEvents]
    rfl
  · rw [← filter_isLineReady_isFrameEvent, hfilter, List.filter_append, filter_isLineReady_visibleLineEvents]
    exact List.append_nil _

/-- Settles O40: the VBlank lines from LY 0, with the dots already counted. -/
theorem vblankAfterLyWrite : Obligations.VblankAfterLyWrite := by
  intro s hm hly hacc
  have hstart : AtStart { s with acc := 0 } .vblank 0 s.frameEvents := ⟨hm, rfl, by rw [hly]; rfl, rfl⟩
  have hfrom : ∀ d, s.advance d = ({ s with acc := 0 }).advance (s.acc + d) := fun d =>
    setAcc_advance (s := s) (x := s.acc) (y := 0) (by omega)
  refine ⟨fun d hd => ⟨_, rfl, ?_⟩, _, rfl, ?_⟩
  · obtain ⟨hlines, hframe⟩ := hstart.vblankLines ((s.acc + d) / 456) (by omega)
    rw [hfrom, ← Nat.div_add_mod (s.acc + d) 456, ← advance_add,
      hlines.advance_lt (d := (s.acc + d) % 456) (Nat.mod_lt _ (by decide))]
    exact ⟨hlines.mode, hframe⟩
  · obtain ⟨hlines, hframe⟩ := hstart.vblankLines 153 (by omega)
    obtain ⟨hend, -, hsame⟩ := hlines.lastVblankLine
    rw [hfrom, show s.acc + (70224 - s.acc) = 456 * 153 + 456 by omega, ← advance_add]
    exact ⟨hend.mode, BitVec.eq_of_toNat_eq hend.line, hend.acc, hsame.trans hframe⟩

end Sys2Proof.Machine

/-! RENDER_LINE: the direct call, each column of the background, window and sprite passes, and what a render reads: the
proofs of the statements of spec/41_compositor.md. -/

namespace Sys2Proof.Machine

/-! ### The direct call -/

/-- A visible line completes in every state (R190, R191). -/
theorem exec_renderLine (s : State) {ly : Byte} (h : ly.toNat < rows) :
    exec (.renderLine ly) s = .next (s.renderLine ly) :=
  if_pos h

/-- With the display on the call draws the line (R192). -/
theorem exec_renderLine_on {s : State} {ly : Byte} (h : ly.toNat < rows) (hon : s.lcdc[7] = true) :
    exec (.renderLine ly) s = .next (s.drawLine ly) := by
  rw [exec_renderLine s h, State.renderLine_on hon]

/-- Settles O49: the call completes for the visible lines only, and a render writes one row. -/
theorem renderLineContract : Obligations.RenderLineContract := by
  refine fun s ly => ⟨fun hly => ?_, fun hly => if_neg (Nat.not_lt.mpr hly)⟩
  have h : ly.toNat < rows := Nat.lt_succ_of_le hly
  exact ⟨_, exec_renderLine s h, s.renderLine_writes ly, fun r hr => s.renderLine_frame_other h hr⟩

/-- Settles O50: the row written is the blank one. -/
theorem blankedLine : Obligations.BlankedLine := by
  intro s ly h hoff
  refine ⟨_, exec_renderLine s h, ?_, fun col => ?_⟩
  · rw [State.renderLine_off hoff]
    rfl
  · rw [State.renderLine_off hoff, frameWriteRow_get s h]
    simp [Vector.get_eq_getElem]

/-! ### A column after the background and window passes -/

/-- The window covers the columns from WX - 7 on (R206, R207). -/
theorem basePixel_window {s : State} {ly : Byte} {col : Nat} (hw : WindowShows s ly) (hcol : s.wx.toNat ≤ col + 7) :
    s.basePixel ly col = s.windowPixel col := by
  have hx : s.windowX ≤ col := by
    unfold State.windowX
    omega
  simp [State.basePixel, (windowDraws_iff s ly).mpr hw, hx]

/-- A column the window does not cover is the background's (R195). -/
theorem basePixel_background {s : State} {ly : Byte} {col : Nat} (hbg : s.lcdc[0] = true)
    (hcol : ¬ WindowShows s ly ∨ col + 7 < s.wx.toNat) : s.basePixel ly col = s.bgPixel ly col := by
  have hno : ¬ (s.windowDraws ly && decide (s.windowX ≤ col)) = true := by
    rw [Bool.and_eq_true, windowDraws_iff, decide_eq_true_eq, State.windowX]
    rintro ⟨hw, hx⟩
    rcases hcol with hcol | hcol
    · exact hcol hw
    · omega
  exact (if_neg hno).trans (if_pos hbg)

/-- With LCDC.0 clear neither pass draws (R192, R194). -/
theorem basePixel_blank {s : State} (hbg : s.lcdc[0] = false) (ly : Byte) (col : Nat) :
    s.basePixel ly col = s.blankPixel := by
  simp [State.basePixel, State.windowDraws, State.bgOn, hbg]

/-- With LCDC.1 clear the sprite pass is not run (R192). -/
theorem finalColor_spritesOff {s : State} (hoff : s.lcdc[1] = false) (ly : Byte) (col : Nat) (p : Pixel) :
    s.finalColor ly col p = p.color :=
  if_neg (ne_true_of_eq_false hoff)

/-- Settles O51: no pass runs, so every column keeps the blank values. -/
theorem layersOffLine : Obligations.LayersOffLine := by
  intro s ly h hon hbg hspr
  refine ⟨_, exec_renderLine_on h hon, ?_, fun col => ?_⟩
  · have hno : ¬ s.windowDraws ly = true := by
      rw [windowDraws_iff]
      rintro ⟨-, hbg', -⟩
      exact Bool.false_ne_true (hbg.symm.trans hbg')
    rw [drawLine_windowLine, if_neg hno]
  · rw [drawLine_frame_get, drawLine_idxBuf_get, drawLine_prioBuf_get, finalColor_spritesOff hspr, basePixel_blank hbg]
    exact ⟨rfl, rfl, rfl⟩

/-- A plane point fetched into a column is what the line leaves there, with the sprites off in the row too. -/
theorem drawLine_planePoint {s : State} {ly : Byte} (h : ly.toNat < rows) (col : Fin columns) {map : Bool}
    {px py : BitVec 8} {x y : Nat} (hx : px.toNat = x) (hy : py.toNat = y)
    (hbase : s.basePixel ly col.val = s.layerPixel (s.fetchTilePixel map px py)) :
    ((s.drawLine ly).idxBuf.get col).toNat = (planePoint s map x y).1 ∧
    (s.drawLine ly).prioBuf.get col = (s.cfg.colorMode && (planePoint s map x y).2[7]) ∧
    (s.lcdc[1] = false →
      ((s.drawLine ly).frame.get ⟨ly.toNat, h⟩).get col = planeColor s (planePoint s map x y)) := by
  obtain ⟨hidx, hprio, hcolor⟩ := layerPixel_eq s map px py x y hx hy
  rw [drawLine_idxBuf_get, drawLine_prioBuf_get, drawLine_frame_get, hbase]
  exact ⟨hidx, hprio, fun hoff => (finalColor_spritesOff hoff ly col.val _).trans hcolor⟩

/-- Settles O52: the background pass fetches the scrolled point. -/
theorem backgroundColumns : Obligations.BackgroundColumns := by
  intro s ly h col hon hbg hcol
  refine ⟨_, exec_renderLine_on h hon, drawLine_planePoint h col ?_ ?_ (basePixel_background hbg hcol)⟩
  · simp
  · exact BitVec.toNat_add _ _

/-- Settles O53: the window pass fetches the point counted from WX - 7 and `windowLine`. -/
theorem windowColumns : Obligations.WindowColumns := by
  intro s ly h col hon hw hcol
  refine ⟨_, exec_renderLine_on h hon, drawLine_planePoint h col ?_ rfl (basePixel_window hw hcol)⟩
  have hlt : col.val < 160 := col.isLt
  rw [BitVec.toNat_ofInt, State.windowX]
  omega

/-- Settles O54: the counter follows the condition under which the window draws. -/
theorem windowLineCounter : Obligations.WindowLineCounter := by
  intro s ly h
  refine ⟨_, exec_renderLine s h, ?_, fun hno => ?_⟩
  · rintro ⟨hon, hw⟩
    rw [State.renderLine_on hon, drawLine_windowLine, if_pos ((windowDraws_iff s ly).mpr hw)]
  · by_cases hon : s.lcdc[7] = true
    · rw [State.renderLine_on hon, drawLine_windowLine,
        if_neg fun hw => hno ⟨hon, (windowDraws_iff s ly).mp hw⟩]
    · rw [State.renderLine_off (eq_false_of_ne_true hon), State.frameWriteRow_windowLine]

/-! ### A column of the sprite pass -/

/-- With LCDC.1 set the first sprite in priority order that draws gives the colour (R192, R216). -/
theorem finalColor_spritesOn {s : State} (hon : s.lcdc[1] = true) (ly : Byte) (col : Nat) (p : Pixel) :
    s.finalColor ly col p = (s.spriteOrder.findSome? (s.spritePixel ly col p)).getD p.color :=
  (if_pos hon).trans (spriteColumn_eq s ly col p)

/-- A column where no listed sprite draws keeps the colour under it. -/
theorem finalColor_of_none {s : State} {ly : Byte} {col : Nat} {p : Pixel}
    (hnone : ∀ n ∈ s.spriteList, s.spritePixel ly col p n = none) : s.finalColor ly col p = p.color := by
  cases hspr : s.lcdc[1] with
  | false => exact finalColor_spritesOff hspr ly col p
  | true =>
    have hfind : s.spriteOrder.findSome? (s.spritePixel ly col p) = none :=
      List.findSome?_eq_none_iff.mpr fun n hn => hnone n ((mem_spriteOrder s n).mp hn)
    rw [finalColor_spritesOn hspr, hfind]
    rfl

/-- A sprite that draws shows where no listed sprite that outranks it draws (R214 to R216). -/
theorem finalColor_of_first {s : State} (hon : s.lcdc[1] = true) (hs : s.SpritesOk) {ly : Byte} {col : Nat}
    {p : Pixel} {n : Fin 40} {c : Argb} (hn : n ∈ s.spriteList) (hdraws : s.spritePixel ly col p n = some c)
    (hfirst : ∀ m ∈ s.spriteList, s.Outranks m n → s.spritePixel ly col p m = none) :
    s.finalColor ly col p = c := by
  obtain ⟨above, below, horder⟩ := List.append_of_mem ((mem_spriteOrder s n).mpr hn)
  have hsorted := spriteOrder_sorted s hs
  rw [horder, List.pairwise_append] at hsorted
  obtain ⟨-, -, houtrank⟩ := hsorted
  have hfind : s.spriteOrder.findSome? (s.spritePixel ly col p) = some c := by
    refine List.findSome?_eq_some_iff.mpr ⟨above, n, below, horder, hdraws, fun m hm => ?_⟩
    have hlisted : m ∈ s.spriteOrder := by simp [horder, hm]
    exact hfirst m ((mem_spriteOrder s m).mp hlisted) (houtrank m hm n List.mem_cons_self)
  rw [finalColor_spritesOn hon, hfind]
  rfl

/-- A lone sprite draws its pixel or leaves the colour under it. -/
theorem finalColor_singleSprite {s : State} (hon : s.lcdc[1] = true) {n : Fin 40} (hlist : s.spriteList = [n])
    (ly : Byte) (col : Nat) (p : Pixel) : s.finalColor ly col p = (s.spritePixel ly col p n).getD p.color := by
  have horder : s.spriteOrder = [n] := by simp [State.spriteOrder, hlist]
  rw [finalColor_spritesOn hon, horder, List.findSome?_singleton]

/-- A sprite the background hides draws nothing (R225, R226). -/
theorem spritePixel_hidden {s : State} {n : Fin 40} {p : Pixel} (hhid : HiddenAt s n p.idx p.prio) (ly : Byte)
    (col : Nat) : s.spritePixel ly col p n = none := by
  rw [spritePixel_eq, if_pos ((hiddenByBackground_iff s n p.idx p.prio).mpr hhid)]

/-- A sprite the background does not hide draws its opaque pixel (R223 to R226). -/
theorem spritePixel_shown {s : State} {n : Fin 40} {p : Pixel} (hshown : ¬ HiddenAt s n p.idx p.prio) (ly : Byte)
    (col : Nat) : s.spritePixel ly col p n = opaqueSpritePixel s ly n col := by
  rw [spritePixel_eq, if_neg fun hhid => hshown ((hiddenByBackground_iff s n p.idx p.prio).mp hhid)]

/-- A sprite without an opaque pixel in a column draws nothing there (R223, R224). -/
theorem spritePixel_transparent {s : State} {ly : Byte} {n : Fin 40} {col : Nat}
    (hnone : opaqueSpritePixel s ly n col = none) (p : Pixel) : s.spritePixel ly col p n = none := by
  rw [spritePixel_eq, hnone, ite_self]

/-- Settles O55: the priority order of the list goes by rank. -/
theorem spritePriority : Obligations.SpritePriority := by
  intro s ly h col hon hspr hs
  refine ⟨_, exec_renderLine_on h hon, fun n c hn hdraws hfirst => ?_, fun hnone => ?_⟩
  · rw [drawLine_frame_get]
    exact finalColor_of_first hspr hs hn hdraws hfirst
  · rw [drawLine_frame_get]
    exact finalColor_of_none hnone

/-- Settles O57: a hidden sprite draws nothing. -/
theorem hiddenSpritesLeaveBackground : Obligations.HiddenSpritesLeaveBackground := by
  intro s ly h col hon
  refine ⟨_, exec_renderLine_on h hon, fun hhid => ?_⟩
  rw [drawLine_idxBuf_get, drawLine_prioBuf_get] at hhid
  rw [drawLine_frame_get]
  exact finalColor_of_none fun n hn => spritePixel_hidden (hhid n hn) ly col.val

/-! ### The same line with LCDC.1 clear -/

/-- The transient buffers hold what the background and window passes put in each column. -/
theorem drawLine_buffers_congr {s u : State} {ly : Byte} (hbase : s.basePixel ly = u.basePixel ly) :
    (s.drawLine ly).idxBuf = (u.drawLine ly).idxBuf ∧ (s.drawLine ly).prioBuf = (u.drawLine ly).prioBuf := by
  have hline : s.baseLine ly = u.baseLine ly := by
    unfold State.baseLine
    rw [hbase]
  unfold State.drawLine
  rw [hline]
  exact ⟨rfl, rfl⟩

/-- The state with LCDC.1 clear. -/
def State.clearSpriteEnable (s : State) : State := { s with lcdc := s.lcdc &&& 0xFD }

/-- Bit 1 is clear. -/
theorem clearSpriteEnable_spritesOff (s : State) : s.clearSpriteEnable.lcdc[1] = false := by
  simp [State.clearSpriteEnable]

/-- Every other bit of LCDC is as before. -/
theorem clearSpriteEnable_lcdc (s : State) {i : Nat} (h : i < 8) (h1 : i ≠ 1) :
    s.clearSpriteEnable.lcdc[i] = s.lcdc[i] := by
  have hmask : ∀ j : Fin 8, j.val ≠ 1 → (0xFD : Byte)[j.val]'j.isLt = true := by decide
  simp only [State.clearSpriteEnable, BitVec.getElem_and, hmask ⟨i, h⟩ h1, Bool.and_true]

/-- The background and window passes do not read LCDC.1. -/
theorem clearSpriteEnable_basePixel (s : State) : s.clearSpriteEnable.basePixel = s.basePixel := by
  have hbg : s.clearSpriteEnable.bgOn = s.bgOn := clearSpriteEnable_lcdc s (by decide) (by decide)
  have hmap : s.clearSpriteEnable.bgMapSel = s.bgMapSel := clearSpriteEnable_lcdc s (by decide) (by decide)
  have hwmap : s.clearSpriteEnable.windowMapSel = s.windowMapSel := clearSpriteEnable_lcdc s (by decide) (by decide)
  have hwon : s.clearSpriteEnable.windowOn = s.windowOn := clearSpriteEnable_lcdc s (by decide) (by decide)
  have htile : s.clearSpriteEnable.tileUnsigned = s.tileUnsigned := clearSpriteEnable_lcdc s (by decide) (by decide)
  have hfetch : s.clearSpriteEnable.fetchTilePixel = s.fetchTilePixel := by
    funext map px py
    unfold State.fetchTilePixel
    rw [htile]
    rfl
  have hdraws : s.clearSpriteEnable.windowDraws = s.windowDraws := by
    funext ly
    unfold State.windowDraws
    rw [hwon, hbg]
    rfl
  funext ly col
  unfold State.basePixel State.windowPixel State.bgPixel
  rw [hdraws, hbg, hmap, hwmap, hfetch]
  rfl

/-- Settles O56: a lone sprite shows where it has an opaque pixel that is not hidden; the passes under it are those of
the line with LCDC.1 clear. -/
theorem singleSpriteColumns : Obligations.SingleSpriteColumns := by
  intro s ly h col n hon hspr hlist
  have hon' : s.clearSpriteEnable.lcdc[7] = true := (clearSpriteEnable_lcdc s (by decide) (by decide)).trans hon
  have hbase : s.basePixel ly = s.clearSpriteEnable.basePixel ly := by rw [clearSpriteEnable_basePixel]
  obtain ⟨hidx, hprio⟩ := drawLine_buffers_congr hbase
  refine ⟨s.drawLine ly, s.clearSpriteEnable.drawLine ly, exec_renderLine_on h hon, exec_renderLine_on h hon',
    hidx, hprio, ?_⟩
  rw [drawLine_frame_get, drawLine_frame_get, drawLine_idxBuf_get, drawLine_prioBuf_get,
    finalColor_spritesOff (clearSpriteEnable_spritesOff s), ← hbase, finalColor_singleSprite hspr hlist]
  refine ⟨fun c hc => ⟨fun hshown => ?_, fun hhid => ?_⟩, fun hnone => ?_, fun hbg => ?_⟩
  · rw [spritePixel_shown hshown, hc]
    rfl
  · rw [spritePixel_hidden hhid]
    rfl
  · rw [spritePixel_transparent hnone]
    rfl
  · rw [basePixel_blank hbg]
    exact ⟨rfl, rfl, rfl⟩

/-! ### What a render reads -/

/-- The state with every field a render does not read as at reset (R230). -/
def State.renderInputs (s : State) : State := { State.reset with
  cfg := s.cfg, lcdc := s.lcdc, scy := s.scy, scx := s.scx, wy := s.wy, wx := s.wx
  bgp := s.bgp, obp0 := s.obp0, obp1 := s.obp1, bgPal := s.bgPal, objPal := s.objPal
  vram := s.vram, oam := s.oam, spriteList := s.spriteList, windowLine := s.windowLine }

/-- Two states that agree in the fields a render reads have the same render inputs. -/
theorem SameRenderInputs.renderInputs_eq {s u : State} (h : SameRenderInputs s u) :
    s.renderInputs = u.renderInputs := by
  obtain ⟨hcfg, hlcdc, hscy, hscx, hwy, hwx, hbgp, hobp0, hobp1, hbgPal, hobjPal, hvram, hoam, hlist, hwin⟩ := h
  simp only [State.renderInputs, hcfg, hlcdc, hscy, hscx, hwy, hwx, hbgp, hobp0, hobp1, hbgPal, hobjPal, hvram, hoam,
    hlist, hwin]

/-- The row, the window-line counter and, with the display on, the buffers a render leaves depend on the render inputs
only (R230). -/
theorem renderLine_renderInputs (s : State) {ly : Byte} (h : ly.toNat < rows) :
    (s.renderLine ly).frame.get ⟨ly.toNat, h⟩ = (s.renderInputs.renderLine ly).frame.get ⟨ly.toNat, h⟩ ∧
    (s.renderLine ly).windowLine = (s.renderInputs.renderLine ly).windowLine ∧
    (s.lcdc[7] = true → (s.renderLine ly).idxBuf = (s.renderInputs.renderLine ly).idxBuf ∧
      (s.renderLine ly).prioBuf = (s.renderInputs.renderLine ly).prioBuf) := by
  cases hon : s.lcdc[7] with
  | false =>
    have hon' : s.renderInputs.displayOn = false := hon
    rw [State.renderLine_off hon, State.renderLine_off hon', frameWriteRow_get _ h, frameWriteRow_get _ h]
    exact ⟨rfl, rfl, nofun⟩
  | true =>
    have hon' : s.renderInputs.displayOn = true := hon
    rw [State.renderLine_on hon, State.renderLine_on hon']
    exact ⟨(frameWriteRow_get _ h _).trans (frameWriteRow_get _ h _).symm, rfl, fun _ => drawLine_buffers_congr rfl⟩

/-- Settles O58: what a render leaves depends on the render inputs only, and they are equal. -/
theorem renderDependsOnlyOnItsInputs : Obligations.RenderDependsOnlyOnItsInputs := by
  intro s u ly h hsame
  obtain ⟨hrow, hwin, hbuf⟩ := renderLine_renderInputs s h
  obtain ⟨hrow', hwin', hbuf'⟩ := renderLine_renderInputs u h
  rw [← hsame.renderInputs_eq] at hrow' hwin' hbuf'
  obtain ⟨-, hlcdc, -⟩ := hsame
  refine ⟨_, _, exec_renderLine s h, exec_renderLine u h, hrow.trans hrow'.symm, hwin.trans hwin'.symm, fun hon => ?_⟩
  obtain ⟨hidx, hprio⟩ := hbuf hon
  obtain ⟨hidx', hprio'⟩ := hbuf' (hlcdc ▸ hon)
  exact ⟨hidx.trans hidx'.symm, hprio.trans hprio'.symm⟩

end Sys2Proof.Machine

/-! The colour-mode palette registers: data writes through an index register, the round trip of a 15-bit value, and
the unmapped accesses of monochrome mode: the proofs of the statements of spec/42_palette.md. -/

namespace Sys2Proof.Machine

/-! ### The table after a data write -/

/-- The even and the odd index of an entry address the same entry (R252). -/
theorem entryOf_congr (t : Palettes) {i j : Nat} (h : j / 2 = i / 2) : entryOf t j = entryOf t i := by
  have h8 : j / 8 = i / 8 := by omega
  rw [entryOf, entryOf, h, h8]

/-- A palette table after a data write of `d` through the index register `x` (R251). -/
def writeThrough (t : Palettes) (x : PalIndex) (d : Byte) : Palettes :=
  t.write (palOf x.index) (colorOf x.index)
    (mergeEntry (isHighByte x.index) (t.read (palOf x.index) (colorOf x.index)) d)

/-- A data write merges its byte into the addressed entry and keeps the others (R251). -/
theorem entryOf_writeThrough (t : Palettes) (x : PalIndex) (d : Byte) {j : Nat} (hj : j < 64) :
    entryOf (writeThrough t x d) j =
      if j / 2 = x.index.toNat / 2 then mergeEntry (isHighByte x.index) (entryOf t j) d else entryOf t j := by
  rw [writeThrough, palettesRead_index, entryOf_write _ _ _ hj]
  split_ifs with h
  · rw [entryOf_congr t h]
  · rfl

/-- An even index addresses the low byte (R252). -/
theorem isHighByte_eq_false {i : BitVec 6} (h : i.toNat % 2 = 0) : isHighByte i = false := by
  rw [← Bool.not_eq_true, isHighByte_iff]
  omega

/-- A data write at an even index in numbers (R253). -/
theorem entryOf_writeThrough_even (t : Palettes) {x : PalIndex} (d : Byte) (hx : x.index.toNat % 2 = 0) {j : Nat}
    (hj : j < 64) : entryOf (writeThrough t x d) j =
      if j / 2 = x.index.toNat / 2 then BitVec.ofNat 15 ((entryOf t j).toNat / 256 * 256 + d.toNat)
      else entryOf t j := by
  rw [entryOf_writeThrough t x d hj, isHighByte_eq_false hx, ← mergeEntry_low, BitVec.ofNat_toNat,
    BitVec.setWidth_eq]

/-- A data write at an odd index in numbers (R254). -/
theorem entryOf_writeThrough_odd (t : Palettes) {x : PalIndex} (d : Byte) (hx : x.index.toNat % 2 = 1) {j : Nat}
    (hj : j < 64) : entryOf (writeThrough t x d) j =
      if j / 2 = x.index.toNat / 2 then BitVec.ofNat 15 (d.toNat % 128 * 256 + (entryOf t j).toNat % 256)
      else entryOf t j := by
  rw [entryOf_writeThrough t x d hj, (isHighByte_iff x.index).mpr hx, ← mergeEntry_high, BitVec.ofNat_toNat,
    BitVec.setWidth_eq]

/-! ### The rows in colour mode -/

section
variable {s : State} (hcolour : s.cfg.colorMode = true)
include hcolour

/-- WRITE_BCPD in colour mode (R256). -/
theorem exec_writeBcpd_colour (d : Byte) : exec (.writeBcpd d) s =
    .next { s with bgPal := writeThrough s.bgPal s.bcps d, bcps := s.bcps.advance } :=
  if_pos hcolour

/-- WRITE_OCPD in colour mode (R257). -/
theorem exec_writeOcpd_colour (d : Byte) : exec (.writeOcpd d) s =
    .next { s with objPal := writeThrough s.objPal s.ocps d, ocps := s.ocps.advance } :=
  if_pos hcolour

/-- A low and then a high byte written to BCPD go through the index and through the advanced index (R251). -/
theorem exec_writeBcpd_pair (lo hi : Byte) : ∃ t u : State,
    exec (.writeBcpd lo) s = .next t ∧ exec (.writeBcpd hi) t = .next u ∧
      u.bgPal = writeThrough (writeThrough s.bgPal s.bcps lo) s.bcps.advance hi ∧
      u.bcps = s.bcps.advance.advance ∧ u.cfg.colorMode = true :=
  ⟨_, _, exec_writeBcpd_colour hcolour lo, if_pos hcolour, rfl, rfl, hcolour⟩

/-- A read of BCPD after a write of BCPS returns the byte the written index addresses (R258, R260). -/
theorem exec_writeBcps_readBcpd (d : Byte) : ∃ t u : State,
    exec (.writeBcps d) s = .next t ∧ exec .readBcpd t = .next u ∧
      u.reads = t.reads ++ [paletteByte s.bgPal (palIndexOf d)] ∧
      u.bgPal = s.bgPal ∧ u.cfg.colorMode = true :=
  ⟨_, _, if_pos hcolour, if_pos hcolour, rfl, rfl, hcolour⟩

end

/-- Settles O17: the merge of a low byte, on either table. -/
theorem paletteLowByteWrite : Obligations.PaletteLowByteWrite := by
  intro s d hcolour
  constructor
  · intro heven
    exact ⟨_, exec_writeBcpd_colour hcolour d, rfl, fun _ hj => entryOf_writeThrough_even _ d heven hj,
      (palIndexAdvance_toNat s.bcps).symm⟩
  · intro heven
    exact ⟨_, exec_writeOcpd_colour hcolour d, rfl, fun _ hj => entryOf_writeThrough_even _ d heven hj,
      (palIndexAdvance_toNat s.ocps).symm⟩

/-- Settles O18: the merge of a high byte, on either table. -/
theorem paletteHighByteWrite : Obligations.PaletteHighByteWrite := by
  intro s d hcolour
  constructor
  · intro hodd
    exact ⟨_, exec_writeBcpd_colour hcolour d, rfl, fun _ hj => entryOf_writeThrough_odd _ d hodd hj,
      (palIndexAdvance_toNat s.bcps).symm⟩
  · intro hodd
    exact ⟨_, exec_writeOcpd_colour hcolour d, rfl, fun _ hj => entryOf_writeThrough_odd _ d hodd hj,
      (palIndexAdvance_toNat s.ocps).symm⟩

/-! ### The round trip -/

/-- A low and then a high byte through an incrementing index make up the whole entry (R265). -/
theorem entryOf_writeThrough_pair (t : Palettes) {x : PalIndex} (lo hi : Byte) (hauto : x.autoInc = true)
    (heven : x.index.toNat % 2 = 0) :
    (entryOf (writeThrough (writeThrough t x lo) x.advance hi) x.index.toNat).toNat =
      hi.toNat % 128 * 256 + lo.toNat := by
  have hx := x.index.isLt
  have hnext : x.advance.index.toNat = x.index.toNat + 1 := by
    rw [(palIndexAdvance_toNat x).1, if_pos hauto]
    omega
  rw [entryOf_writeThrough_odd _ hi (by omega) hx, if_pos (by omega), entryOf_writeThrough_even t lo heven hx,
    if_pos rfl, BitVec.toNat_ofNat, BitVec.toNat_ofNat]
  have hlo := lo.isLt
  omega

/-- The byte an index register addresses, in numbers (R258). -/
theorem paletteByte_toNat (t : Palettes) (x : PalIndex) : (paletteByte t x).toNat =
    if x.index.toNat % 2 = 1 then (entryOf t x.index.toNat).toNat / 256
    else (entryOf t x.index.toNat).toNat % 256 := by
  simp only [paletteByte, entryByte_toNat, palettesRead_index, isHighByte_iff]

/-- A byte below 64 written to an index register is the index (R260). -/
theorem palIndexOf_index {n : Nat} (hn : n < 64) : (palIndexOf (BitVec.ofNat 8 n)).index.toNat = n := by
  rw [palIndexOf, BitVec.extractLsb'_toNat, BitVec.toNat_ofNat, Nat.shiftRight_zero]
  omega

/-- The low byte of the entry reads back at its even index (R265). -/
theorem paletteByte_lo {t : Palettes} {lo hi : Byte} {n : Nat} (hn : n < 64) (heven : n % 2 = 0)
    (hv : (entryOf t n).toNat = hi.toNat % 128 * 256 + lo.toNat) :
    paletteByte t (palIndexOf (BitVec.ofNat 8 n)) = lo := by
  apply BitVec.eq_of_toNat_eq
  rw [paletteByte_toNat, palIndexOf_index hn, if_neg (by omega), hv]
  have hlo := lo.isLt
  omega

/-- The high byte of the entry reads back at its odd index without bit 7 (R265). -/
theorem paletteByte_hi {t : Palettes} {lo hi : Byte} {n : Nat} (hn : n + 1 < 64) (heven : n % 2 = 0)
    (hv : (entryOf t n).toNat = hi.toNat % 128 * 256 + lo.toNat) :
    paletteByte t (palIndexOf (BitVec.ofNat 8 (n + 1))) = hi &&& 0x7F := by
  have hmask : (hi &&& 0x7F).toNat = hi.toNat % 128 := Nat.and_two_pow_sub_one_eq_mod hi.toNat 7
  apply BitVec.eq_of_toNat_eq
  rw [hmask, paletteByte_toNat, palIndexOf_index hn, if_pos (by omega),
    entryOf_congr t (show (n + 1) / 2 = n / 2 by omega), hv]
  have hlo := lo.isLt
  omega

/-- Settles O19: the two writes make up the entry, whose two bytes then read back. -/
theorem paletteRoundTrip : Obligations.PaletteRoundTrip := by
  intro s lo hi k hcolour hbcps
  have hk := k.isLt
  have hauto : s.bcps.autoInc = true := by rw [hbcps]
  have hindex : s.bcps.index.toNat = 2 * k.val := by
    rw [hbcps, BitVec.toNat_ofNat]
    omega
  have hentry := entryOf_writeThrough_pair s.bgPal lo hi hauto (by omega)
  rw [hindex] at hentry
  obtain ⟨hindex₁, hauto₁⟩ := palIndexAdvance_toNat s.bcps
  obtain ⟨hindex₂, hauto₂⟩ := palIndexAdvance_toNat s.bcps.advance
  have hend : s.bcps.advance.advance.index.toNat = (2 * k.val + 2) % 64 := by
    rw [hindex₂, hauto₁, hindex₁, if_pos hauto, if_pos hauto, hindex]
    omega
  obtain ⟨t, u, ht, hu, hupal, hubcps, hucolour⟩ := exec_writeBcpd_pair hcolour lo hi
  obtain ⟨v, w, hv, hw, hwreads, hwpal, hwcolour⟩ := exec_writeBcps_readBcpd hucolour (BitVec.ofNat 8 (2 * k.val))
  obtain ⟨x, y, hx, hy, hyreads, -, -⟩ := exec_writeBcps_readBcpd hwcolour (BitVec.ofNat 8 (2 * k.val + 1))
  rw [← hupal] at hentry
  rw [paletteByte_lo (by omega) (by omega) hentry] at hwreads
  rw [hwpal, paletteByte_hi (by omega) (by omega) hentry] at hyreads
  exact ⟨t, u, v, w, x, y, ht, hu, hentry, by rw [hubcps, hend], by rw [hubcps, hauto₂, hauto₁, hauto],
    hv, hw, hwreads, hx, hy, hyreads⟩

/-! ### Monochrome mode -/

/-- Settles O14: each row takes its unmapped branch. -/
theorem monochromeColourRegisters : Obligations.MonochromeColourRegisters := by
  intro s d hmono
  have unmapped : ∀ a b : Host.Outcome State Fault Refusal, (if s.cfg.colorMode then a else b) = b := fun a b => by
    rw [hmono]
    rfl
  exact ⟨⟨unmapped _ _, unmapped _ _⟩, ⟨unmapped _ _, unmapped _ _⟩, ⟨unmapped _ _, unmapped _ _⟩,
    ⟨unmapped _ _, unmapped _ _⟩, unmapped _ _, unmapped _ _⟩

end Sys2Proof.Machine

/-! Bus accesses, row by row: what each read returns and what each write changes. The proofs of the statements about
spec/43_bus_access.md. -/

namespace Sys2Proof.Machine

/-! ### VRAM and OAM -/

/-- A read after a write, at the address written or at another. -/
theorem Memory.read_write {m : Memory} (h : m.wf) (a : Nat) (v : Byte) (x : Nat) :
    (m.write a v).read x = if x = a then v else m.read x := by
  split_ifs with hx
  · rw [hx, Memory.read_write_same h]
  · exact Memory.read_write_other m v hx

/-- The flat index of an offset of the bus window, in numbers (R41, R82). -/
theorem vramIndex_busBank (s : State) (off : BitVec 13) :
    vramIndex s.busBank off.toNat = (if s.cfg.colorMode then s.vbk.toNat else 0) * 0x2000 + off.toNat := by
  rw [vramIndex_window, State.busBank_toNat]

/-- Settles O20: both rows go to the flat index of the offset in the bank of the bus window. -/
theorem vramAccess : Obligations.VramAccess := by
  intro s off d
  rw [← vramIndex_busBank]
  exact ⟨rfl, fun ⟨hvram, _⟩ => ⟨_, rfl, rfl, Memory.read_write hvram _ d⟩⟩

/-- Settles O21: an index of the window is its own OAM address. -/
theorem oamAccess : Obligations.OamAccess := by
  intro s i d hi
  have haddr : i.toNat % 160 = i.toNat := Nat.mod_eq_of_lt hi
  rw [← haddr]
  exact ⟨rfl, fun ⟨_, hoam, _⟩ => ⟨_, rfl, rfl, Memory.read_write hoam _ d⟩⟩

/-! ### LCDC, LY and LYC -/

/-- Settles O26: the form of `State.restart_eq` at an edge of bit 7; the list is that of a search at LY 0. -/
theorem lcdcWrite : Obligations.LcdcWrite := by
  intro s d
  rw [exec_writeLcdc]
  refine ⟨fun hkept => by rw [if_pos hkept.symm], fun hedge => ⟨_, by rw [if_neg (Ne.symm hedge)], ?_, ?_⟩⟩
  · rw [State.restart_eq]
    exact oamSearch_listIsSearched _
  · rw [State.restart_eq, State.statEnable_lyc, zero_beq_eq_decide]
    rfl

/-- Settles O25: checkLYC compares LY 0 with LYC. -/
theorem lyWrite : Obligations.LyWrite := by
  intro s d
  rw [← State.statEnable_lyc, ← zero_beq_eq_decide]
  exact congrArg Host.Outcome.next (State.checkLyc_eq _)

/-- Settles O24: by the parameter; a recheck is checkLYC with the new LYC. -/
theorem lycWrite : Obligations.LycWrite := by
  intro s d
  have row : exec (.writeLyc d) s =
      .next (if s.cfg.lycWriteRecheck then ({ s with lyc := d }).checkLyc else { s with lyc := d }) := rfl
  rw [row]
  refine ⟨fun hoff => by rw [hoff]; rfl, fun hon => ?_⟩
  rw [if_pos hon, State.checkLyc_spec]
  rfl

/-! ### STAT -/

/-- The number of a mode fits STAT bits 1..0 (R32). -/
theorem modeNumber_lt (m : Mode) : modeNumber m < 4 := by
  cases m <;> decide

/-- Bits 7..3 of STAT as read are those stored (R277). -/
theorem stat_extractLsb' (s : State) : s.stat.extractLsb' 3 5 = s.statHi := by
  have hmode := modeNumber_lt s.mode
  have hflag := s.coincidence.toNat_lt
  apply BitVec.eq_of_toNat_eq
  rw [BitVec.extractLsb'_toNat, State.stat_toNat, Nat.shiftRight_eq_div_pow]
  omega

/-- Bit 2 of STAT as read is the coincidence flag (R277). -/
theorem stat_getElem_two (s : State) : s.stat[2] = s.coincidence := by
  rw [State.stat, ← BitVec.getLsbD_eq_getElem, BitVec.getLsbD_append, BitVec.getLsbD_append]
  simp

/-- Bits 2..0 of STAT as read are the coincidence flag and the number of the mode (R277). -/
theorem stat_toNat_mod_eight (s : State) : s.stat.toNat % 8 = s.coincidence.toNat * 4 + modeNumber s.mode := by
  have hmode := modeNumber_lt s.mode
  have hflag := s.coincidence.toNat_lt
  rw [State.stat_toNat]
  omega

/-- Settles O12: the byte is STAT as read. -/
theorem statRead : Obligations.StatRead := by
  intro s
  refine ⟨s.stat, rfl, stat_extractLsb' s, stat_getElem_two s, ?_⟩
  have hmode := modeNumber_lt s.mode
  have hlow := stat_toNat_mod_eight s
  omega

/-- Settles O23: bits 2..0 are not stored with bits 7..3. -/
theorem statWrite : Obligations.StatWrite := by
  intro s d
  refine ⟨{ s with statHi := statHiOf d }, rfl, rfl, ?_⟩
  have hhigh : (statHiOf d).toNat = d.toNat / 8 := by
    have := d.isLt
    rw [statHiOf, BitVec.extractLsb'_toNat, Nat.shiftRight_eq_div_pow]
    omega
  rw [State.stat_toNat, stat_toNat_mod_eight, hhigh]
  exact Nat.add_assoc _ _ _

/-! ### Colour registers -/

/-- VBK as read, in numbers (R299). -/
theorem vbkByte_eq_ofNat (v : BitVec 1) : vbkByte v = BitVec.ofNat 8 (0xFE + v.toNat) := by
  decide +revert

/-- An index register as read, in numbers (R261, R263). -/
theorem palIndexToByte_eq_ofNat (x : PalIndex) :
    x.toByte = BitVec.ofNat 8 (128 * x.autoInc.toNat + x.index.toNat) := by
  have hindex := x.index.isLt
  have hflag := x.autoInc.toNat_lt
  apply BitVec.eq_of_toNat_eq
  rw [PalIndex.toByte, BitVec.toNat_append, ← Nat.shiftLeft_add_eq_or_of_lt hindex, BitVec.toNat_append,
    BitVec.toNat_ofBool, BitVec.toNat_ofNat, BitVec.toNat_ofNat, Nat.shiftLeft_eq, Nat.shiftLeft_eq, Nat.zero_mod,
    Nat.or_zero]
  omega

/-- A data register as read, in numbers (R258, R259). -/
theorem paletteByte_eq_ofNat (t : Palettes) (x : PalIndex) :
    paletteByte t x = BitVec.ofNat 8 (if x.index.toNat % 2 = 0 then (entryOf t x.index.toNat).toNat % 256
      else (entryOf t x.index.toNat).toNat / 256) := by
  have hentry := (entryOf t x.index.toNat).isLt
  apply BitVec.eq_of_toNat_eq
  rw [paletteByte_toNat, BitVec.toNat_ofNat]
  split_ifs <;> omega

/-- Settles O15: each row takes its colour branch, the byte in numbers. -/
theorem colourRegisterReads : Obligations.ColourRegisterReads := by
  intro s hcolour
  rw [← vbkByte_eq_ofNat, ← palIndexToByte_eq_ofNat, ← palIndexToByte_eq_ofNat, ← paletteByte_eq_ofNat,
    ← paletteByte_eq_ofNat]
  exact ⟨if_pos hcolour, if_pos hcolour, if_pos hcolour, if_pos hcolour, if_pos hcolour⟩

/-- Settles O16: each row takes its colour branch; the low bits of the data are the data reduced. -/
theorem colourRegisterWrites : Obligations.ColourRegisterWrites :=
  fun _ _ hcolour => ⟨if_pos hcolour, if_pos hcolour, if_pos hcolour⟩

/-! ### Plain registers and unmapped addresses -/

/-- Settles O11: each row returns its register. -/
theorem registerReads : Obligations.RegisterReads :=
  fun _ => ⟨rfl, rfl, rfl, rfl, rfl, rfl, rfl, rfl, rfl, rfl⟩

/-- Settles O22: each row is the assignment of its register. -/
theorem plainRegisterWrites : Obligations.PlainRegisterWrites :=
  fun _ _ => ⟨rfl, rfl, rfl, rfl, rfl, rfl, rfl⟩

/-- Settles O13: offset 6 has the rows of an unmapped address. -/
theorem unmappedAccesses : Obligations.UnmappedAccesses :=
  fun _ _ _ => ⟨rfl, rfl, rfl, rfl⟩

/-! ### What a bus write puts out -/

/-- A write of a colour register returns no byte and emits no event, in both modes (R256, R257, R260, R264). -/
theorem exec_writeCgb_outputs (r : CgbReg) (d : Byte) (s : State) :
    ∃ t : State, exec ((Target.cgb r).writeInstr d) s = .next t ∧ t.reads = s.reads ∧ t.events = s.events := by
  have row : ∀ u : State, u.reads = s.reads → u.events = s.events →
      ∃ t : State, (if s.cfg.colorMode then .next u else .next s : Host.Outcome State Fault Refusal) = .next t ∧
        t.reads = s.reads ∧ t.events = s.events := fun u hreads hevents => by
    cases s.cfg.colorMode
    · exact ⟨s, rfl, rfl, rfl⟩
    · exact ⟨u, rfl, hreads, hevents⟩
  cases r <;> exact row _ rfl rfl

/-- A bus write returns no byte and emits nothing, or one LYC request when its target is LCDC, LY or LYC (R110). -/
theorem exec_writeInstr_outputs (tg : Target) (d : Byte) (s : State) : ∃ (t : State) (request : Bool),
    exec (tg.writeInstr d) s = .next t ∧ t.reads = s.reads ∧
      t.events = s.events ++ eventIf request (.irqStat .lyc) ∧
      (request = true → tg = .reg .lcdc ∨ tg = .reg .ly ∨ tg = .reg .lyc) := by
  have quiet : s.events = s.events ++ eventIf false (.irqStat .lyc) := (List.append_nil _).symm
  cases tg with
  | reg r =>
    cases r with
    | lcdc =>
      obtain ⟨hkept, hedge⟩ := lcdcWrite s d
      by_cases h : d[7] = s.lcdc[7]
      · exact ⟨_, false, hkept h, rfl, quiet, nofun⟩
      · obtain ⟨t, ht, -, heq⟩ := hedge h
        exact ⟨t, _, ht, by rw [heq], by rw [heq], fun _ => .inl rfl⟩
    | ly => exact ⟨_, _, lyWrite s d, rfl, rfl, fun _ => .inr (.inl rfl)⟩
    | lyc =>
      obtain ⟨hoff, hon⟩ := lycWrite s d
      cases h : s.cfg.lycWriteRecheck with
      | false => exact ⟨_, false, hoff h, rfl, quiet, nofun⟩
      | true => exact ⟨_, _, hon h, rfl, rfl, fun _ => .inr (.inr rfl)⟩
    | stat | scy | scx | base6 | bgp | obp0 | obp1 | wy | wx => exact ⟨_, false, rfl, rfl, quiet, nofun⟩
  | cgb r =>
    obtain ⟨t, ht, hreads, hevents⟩ := exec_writeCgb_outputs r d s
    exact ⟨t, false, ht, hreads, hevents.trans quiet, nofun⟩
  | vram off => exact ⟨_, false, rfl, rfl, quiet, nofun⟩
  | oam i => exact ⟨_, false, rfl, rfl, quiet, nofun⟩
  | unmapped a => exact ⟨_, false, rfl, rfl, quiet, nofun⟩

/-- Settles O9: by bit 16, the read or the write of the target the address selects. -/
theorem busReadsReturnOneByte : Obligations.BusReadsReturnOneByte := by
  intro s w d
  rw [decode_bus]
  generalize decodeTarget s.cfg (w.setWidth 16) = tg
  cases w[16] with
  | false => exact ⟨fun _ => exec_readInstr tg s, nofun⟩
  | true =>
    obtain ⟨t, request, ht, hreads, hevents, htg⟩ := exec_writeInstr_outputs tg d s
    refine ⟨nofun, fun _ => ⟨t, _, ht, hreads, hevents, ?_⟩⟩
    cases request with
    | false => exact .inl rfl
    | true =>
      refine .inr ⟨rfl, ?_⟩
      rcases htg rfl with rfl | rfl | rfl
      · exact .inl rfl
      · exact .inr (.inl rfl)
      · exact .inr (.inr rfl)

end Sys2Proof.Machine

/-! Completion: which operations have no next state. The proof of the statement of spec/60_exceptions.md. -/

namespace Sys2Proof.Machine

/-- Settles O48: by the shape of the instruction, whose rules give the next state; a direct call completes for the
visible lines and is refused for the others. -/
theorem onlyInvisibleRenderLineIsRefused : Obligations.OnlyInvisibleRenderLineIsRefused := by
  intro i s
  cases instrShape i with
  | read tg =>
    obtain ⟨b, hb⟩ := exec_readInstr tg s
    exact .inl ⟨_, hb⟩
  | write tg d =>
    obtain ⟨t, ht, -⟩ := exec_writeInstr tg d s
    exact .inl ⟨t, ht⟩
  | advance d => exact .inl ⟨s.advance d, rfl⟩
  | renderLine ly =>
    rcases Nat.lt_or_ge ly.toNat 144 with hvisible | hinvisible
    · exact .inl ⟨_, exec_renderLine s hvisible⟩
    · exact .inr ⟨ly, rfl, hinvisible, (renderLineContract s ly).2 hinvisible⟩
  | seq m ly =>
    rcases exec_decodeSeq m ly s with h | h <;> exact .inl ⟨_, h⟩

end Sys2Proof.Machine

/-! Power-on with any parameters and launch contents: the proof of the statement of
spec/70_reset_and_hazards.md. -/

namespace Sys2Proof.Machine

section
variable (c : Config) (l : Launch)

/-- Power-on sets STAT bit 2 by comparing LYC with the LY of 0 it starts from (R55, R370). -/
theorem powerOn_coincidence : (State.powerOn c l).coincidence = decide (l.lyc = 0) := by
  show (0 == l.lyc) = decide (l.lyc = 0)
  rw [Bool.beq_comm]
  rfl

/-- Power-on leaves both line buffers clear (R55, R370). -/
theorem powerOn_buffers_clear (k : Fin columns) :
    (State.powerOn c l).idxBuf.get k = 0 ∧ (State.powerOn c l).prioBuf.get k = false := by
  show (Vector.replicate columns 0).get k = 0 ∧ (Vector.replicate columns false).get k = false
  simp [Vector.get_eq_getElem]

/-- The search is the last step of power-on, so the list is what it selects (R370). -/
theorem powerOn_listIsSearched : (State.powerOn c l).ListIsSearched := by
  unfold State.powerOn
  exact oamSearch_listIsSearched _

theorem powerOn_spritesOk : (State.powerOn c l).SpritesOk := by
  unfold State.powerOn
  exact oamSearch_spritesOk _

/-- Power-on starts a mode without dots carried into it (R144, R370). -/
theorem powerOn_carryOk : (State.powerOn c l).CarryOk := duration_pos .oamSearch

/-- Power-on starts from LY 0, which is a visible line (R160, R370). -/
theorem powerOn_lyOk : (State.powerOn c l).LyOk := lyOk_of_le (Nat.zero_le 143)

end

/-- Settles O42: the registers and memories are the launch contents by computation, the list and its invariant come
from the search, and launch contents that are memories of the block stay so. -/
theorem powerOnState : Obligations.PowerOnState := by
  rintro c l hl t rfl
  have hmemory : (State.powerOn c l).MemoryOk := hl
  exact ⟨rfl, rfl, rfl, rfl, powerOn_coincidence c l, rfl, rfl, rfl, rfl, rfl, rfl, rfl, rfl, rfl, rfl, rfl, rfl, rfl,
    rfl, rfl, rfl, rfl, rfl, rfl, rfl, powerOn_buffers_clear c l, powerOn_listIsSearched c l, hmemory,
    powerOn_carryOk c l, powerOn_lyOk c l, powerOn_spritesOk c l⟩

end Sys2Proof.Machine
